-- ==== Sys2Proof/Word.lean ====
section
/-! DEFINITION. The two widths of the machine: a byte of a register, of memory or of a port, and a
sixteen-bit address or register pair (spec/00_scope.md R5). -/

namespace Sys2Proof

/-- The contents of an 8-bit register, of a memory cell or of a port (R5: data width 8). -/
abbrev Byte := BitVec 8

/-- An address, the program counter, SP or a register pair (R5: address width 16). -/
abbrev Word := BitVec 16

end Sys2Proof
end

