-- ==== Sys2Proof/Config.lean ====
section
/-! DEFINITION. What an implementation or a platform fixes (spec/00_scope.md R5), and the free values: constants
with no body, so that a statement about one holds whatever it is. -/

namespace Sys2Proof

/-- Which of the two processors (R2, R5: the parameter `variant`). -/
inductive Variant where
  | i8080
  | i8085
deriving DecidableEq, Repr

/-- What the platform puts at an address (20_memory.md R57, D6). -/
inductive MemKind where
  /-- Read/write memory. -/
  | ram
  /-- Memory that is read and that a write does not change. -/
  | rom
  /-- Nothing is there: a read is a draw, a write goes nowhere. -/
  | absent
deriving DecidableEq, Repr

/-- One range of the platform's memory map, both ends included. -/
structure Region where
  first : Nat
  last  : Nat
  kind  : MemKind
deriving DecidableEq, Repr

/-- The five interrupt sources (60_exceptions.md R252, R253). -/
inductive IntSource where
  /-- The request of R252, common to both processors (the 8085's INTR). -/
  | int
  | trap
  | rst55
  | rst65
  | rst75
deriving DecidableEq, Repr

/-- The parameters of R5 that a platform fixes, as plain data: a statement about every state is one about every
value of them. -/
structure Platform where
  /-- Which processor (entry 1). -/
  variant  : Variant
  /-- `MemKind`: the first range that holds an address says its kind; an address in no range is RAM (entry 7). -/
  memMap   : List Region
  /-- `IntPriority`, highest first; a source not listed comes after the listed ones (entry 15). -/
  priority : List IntSource
deriving DecidableEq, Repr

/-- One access to the I/O space (R51, R64), an entry of the machine's port history. -/
inductive IoEvent where
  /-- An IN read `value` from `port` (R223). -/
  | portRead (port value : Byte)
  /-- An OUT wrote `value` to `port` (R225). -/
  | portWrite (port value : Byte)
deriving DecidableEq, Repr

/-- Where, among the byte accesses of one step, a DMA agent may write (R54, R68: between any two byte accesses of the
processor). A gap that the step does not reach sees no write. -/
inductive BusGap where
  /-- Before the first access of the step: the instruction boundary. -/
  | boundary
  /-- Between the fetches of the first and the second byte of an instruction. -/
  | secondByte
  /-- Between the fetches of the second and the third byte. -/
  | thirdByte
  /-- Between the last byte fetched and the first data access. An interrupt entry fetches nothing: its gap there is the
  boundary. -/
  | data1
  /-- Between the first and the second data access. -/
  | data2
  /-- Between the second and the third (XTHL). -/
  | data3
  /-- Between the third and the fourth (XTHL). -/
  | data4
deriving DecidableEq, Repr

/-- One byte that a DMA agent writes (R68). -/
structure DmaWrite where
  gap  : BusGap
  addr : Word
  byte : Byte
deriving DecidableEq, Repr

/-- What the environment presents at one instruction boundary and during the step that follows: the oracles
`IntSource`, `SID` and `PortIn` of R5, the RESET signal (R274) and the DMA agent (R68) as plain data. -/
structure Inputs where
  /-- The RESET signal is applied (R290). DESIGN CHOICE: at this boundary, between two instructions, and for one step;
  a longer RESET is several entries (N40; entry 42). -/
  reset    : Bool
  /-- Bytes a DMA agent writes at this boundary and between the byte accesses of the step, in order (R68; entry 18). -/
  dma      : List DmaWrite
  /-- A device requests service on the line of R252. -/
  int      : Bool
  /-- The instruction byte that device supplies if its request is accepted (R257). -/
  intByte  : Byte
  /-- The TRAP input requests (R253). -/
  trap     : Bool
  /-- An edge on the RST7.5 pin since the previous boundary (R260). -/
  rst75    : Bool
  /-- The RST6.5 input requests (R253). -/
  rst65    : Bool
  /-- The RST5.5 input requests (R253). -/
  rst55    : Bool
  /-- Whether an acceptable request is accepted at this boundary (R254: the oracle's choice; entry 30). -/
  accept   : Bool
  /-- The serial input bit of R41; with no value given it is a free value (entry 13). -/
  sid      : Option Bool
  /-- The byte an IN of this step reads; with no value given it is a free value (entry 12). -/
  portIn   : Option Byte
deriving DecidableEq, Repr

/-- Nothing requests, nothing is applied, and the data inputs are free values. -/
def Inputs.quiet : Inputs :=
  { reset := false, dma := [], int := false, intByte := 0, trap := false, rst75 := false, rst65 := false
    rst55 := false, accept := true, sid := none, portIn := none }

/-- Whether a read is an instruction fetch or a data access: with the step's number and the address it names one
read, so that a read of an address with nothing there is a fresh draw each time (D6; entry 9). -/
inductive ReadPhase where
  | fetch
  | data
deriving DecidableEq, Repr

/-- OPEN (R150, D10): AC after ANA and ANI, a function of the variant, of A before the operation and of the other
operand (entry 10). -/
opaque Config.andAux : Variant → Byte → Byte → Bool

/-- Undefined (R32, R227, D11): the bits 5, 3, 1 (in that order) of the flag byte that PUSH PSW stores on the
8085, a fresh draw for each step (entry 11). -/
opaque Config.filler8085 : Nat → BitVec 3

/-- The oracle `PortIn(port, history)` of R5, where `Inputs.portIn` gives no value (entry 12). -/
opaque Config.portIn : List IoEvent → Byte → Byte

/-- The oracle `SID` of R5, where `Inputs.sid` gives no value: one draw for each step (entry 13). -/
opaque Config.sid : Nat → Bool

/-- A read of an address where nothing is (R57, U12): a draw for each step, phase and address (entry 9). -/
opaque Config.openBus : Nat → ReadPhase → Nat → Byte

/-- `ResetValue` of a general register, by its code of R73, for a RESET at a given step (D9; entry 16). -/
opaque Config.resetByte : Nat → BitVec 3 → Byte

/-- `ResetValue` of SP (D9; entry 16). -/
opaque Config.resetSp : Nat → Word

/-- `ResetValue` of a flag, by its bit number in the flag byte (D9; entry 16). -/
opaque Config.resetFlag : Nat → Nat → Bool

/-- `ResetValue` of the 8085's mask, M7_5, M6_5, M5_5 in that order (D22; entry 16). -/
opaque Config.resetMask : Nat → BitVec 3

/-- `ResetValue` of the 8085's SOD (D22; entry 16). -/
opaque Config.resetSod : Nat → Bool

end Sys2Proof
end

