-- ==== Sys2Proof/Syntax.lean ====
section
/-! DEFINITION. The instructions: one constructor for each row of spec/opcode_table.json, and the operand forms of
spec/30_encoding.md R73, R74, R88. -/

namespace Sys2Proof

/-- An 8-bit operand in the order of its codes (R73): a register, or `m`, the memory byte at HL (R22). -/
inductive Operand8 where
  | b
  | c
  | d
  | e
  | h
  | l
  | m
  | a
deriving DecidableEq, Repr

/-- The pairs of LXI, INX, DCX and DAD (R74). -/
inductive RegPair where
  | b
  | d
  | h
  | sp
deriving DecidableEq, Repr

/-- The pairs of PUSH and POP (R74): code 11 is the program status word. -/
inductive StackPair where
  | b
  | d
  | h
  | psw
deriving DecidableEq, Repr

/-- The pairs of LDAX and STAX (R74): B or D only. -/
inductive IndexPair where
  | b
  | d
deriving DecidableEq, Repr

/-- The 80 instructions. Rule numbers are the rows' own. -/
inductive Instr where
  -- data transfer (40_data_transfer.md)
  /-- LDA (R100). -/
  | lda (addr : Word)
  /-- LDAX (R101). -/
  | ldax (rp : IndexPair)
  /-- LHLD (R102). -/
  | lhld (addr : Word)
  /-- LXI (R103). -/
  | lxi (rp : RegPair) (data : Word)
  /-- MOV (R104). -/
  | mov (dst src : Operand8)
  /-- MVI (R105). -/
  | mvi (dst : Operand8) (data : Byte)
  /-- SHLD (R106). -/
  | shld (addr : Word)
  /-- STA (R107). -/
  | sta (addr : Word)
  /-- STAX (R108). -/
  | stax (rp : IndexPair)
  /-- XCHG (R109). -/
  | xchg
  -- arithmetic (41_arithmetic.md)
  /-- ACI (R122). -/
  | aci (data : Byte)
  /-- ADC (R123). -/
  | adc (src : Operand8)
  /-- ADD (R124). -/
  | add (src : Operand8)
  /-- ADI (R125). -/
  | adi (data : Byte)
  /-- DAA (R126). -/
  | daa
  /-- DAD (R127). -/
  | dad (rp : RegPair)
  /-- DCR (R128). -/
  | dcr (dst : Operand8)
  /-- DCX (R129). -/
  | dcx (rp : RegPair)
  /-- INR (R130). -/
  | inr (dst : Operand8)
  /-- INX (R131). -/
  | inx (rp : RegPair)
  /-- SBB (R132). -/
  | sbb (src : Operand8)
  /-- SBI (R133). -/
  | sbi (data : Byte)
  /-- SUB (R134). -/
  | sub (src : Operand8)
  /-- SUI (R135). -/
  | sui (data : Byte)
  -- logical (42_logical.md)
  /-- ANA (R151). -/
  | ana (src : Operand8)
  /-- ANI (R152). -/
  | ani (data : Byte)
  /-- CMA (R153). -/
  | cma
  /-- CMC (R154). -/
  | cmc
  /-- CMP (R155). -/
  | cmp (src : Operand8)
  /-- CPI (R156). -/
  | cpi (data : Byte)
  /-- ORA (R157). -/
  | ora (src : Operand8)
  /-- ORI (R158). -/
  | ori (data : Byte)
  /-- RAL (R159). -/
  | ral
  /-- RAR (R160). -/
  | rar
  /-- RLC (R161). -/
  | rlc
  /-- RRC (R162). -/
  | rrc
  /-- STC (R163). -/
  | stc
  /-- XRA (R164). -/
  | xra (src : Operand8)
  /-- XRI (R165). -/
  | xri (data : Byte)
  -- branch (43_branch.md)
  /-- CALL (R182). -/
  | call (addr : Word)
  /-- CC (R183). -/
  | cc (addr : Word)
  /-- CM (R184). -/
  | cm (addr : Word)
  /-- CNC (R185). -/
  | cnc (addr : Word)
  /-- CNZ (R186). -/
  | cnz (addr : Word)
  /-- CP (R187). -/
  | cp (addr : Word)
  /-- CPE (R188). -/
  | cpe (addr : Word)
  /-- CPO (R189). -/
  | cpo (addr : Word)
  /-- CZ (R190). -/
  | cz (addr : Word)
  /-- JC (R191). -/
  | jc (addr : Word)
  /-- JM (R192). -/
  | jm (addr : Word)
  /-- JMP (R193). -/
  | jmp (addr : Word)
  /-- JNC (R194). -/
  | jnc (addr : Word)
  /-- JNZ (R195). -/
  | jnz (addr : Word)
  /-- JP (R196). -/
  | jp (addr : Word)
  /-- JPE (R197). -/
  | jpe (addr : Word)
  /-- JPO (R198). -/
  | jpo (addr : Word)
  /-- JZ (R199). -/
  | jz (addr : Word)
  /-- PCHL (R200). -/
  | pchl
  /-- RC (R201). -/
  | rc
  /-- RET (R202). -/
  | ret
  /-- RM (R203). -/
  | rm
  /-- RNC (R204). -/
  | rnc
  /-- RNZ (R205). -/
  | rnz
  /-- RP (R206). -/
  | rp
  /-- RPE (R207). -/
  | rpe
  /-- RPO (R208). -/
  | rpo
  /-- RST (R209). -/
  | rst (code : BitVec 3)
  /-- RZ (R210). -/
  | rz
  -- stack, input/output and machine control (44_stack_io_control.md)
  /-- DI (R220). -/
  | di
  /-- EI (R221). -/
  | ei
  /-- HLT (R222). -/
  | hlt
  /-- IN (R223). -/
  | inPort (port : Byte)
  /-- NOP (R224). -/
  | nop
  /-- OUT (R225). -/
  | outPort (port : Byte)
  /-- POP (R226). -/
  | pop (rp : StackPair)
  /-- PUSH (R227). -/
  | push (rp : StackPair)
  /-- RIM, 8085 only (R228). -/
  | rim
  /-- SIM, 8085 only (R229). -/
  | sim
  /-- SPHL (R230). -/
  | sphl
  /-- XTHL (R231). -/
  | xthl
deriving DecidableEq, Repr

end Sys2Proof
end

