-- ==== Sys2Proof/WellFormed.lean ====
section
/-! DEFINITION. Which terms of `Instr` are instructions of the given processor. -/

namespace Sys2Proof

/-- Two checks: "MOV M,M is not permitted" (R104), and "RIM and SIM are 8085-only" (R84). Every other term is an
instruction of both processors: every operand value is legal (R86, R88). -/
def Instr.wellFormed (v : Variant) : Instr → Bool
  | .mov .m .m => false
  | .rim => v = .i8085
  | .sim => v = .i8085
  | _ => true

end Sys2Proof
end

