-- ==== Sys2Proof/Decode.lean ====
section
/-! DEFINITION. Decoding and encoding, from the code tables and the opcode map of spec/30_encoding.md (R70 to R86).
The byte values are the spec's general knowledge G1 to G4 and G24 (entry 19). -/

namespace Sys2Proof

/-- `hi : lo` as a sixteen-bit value (R6, R78). -/
def wordOf (hi lo : Byte) : Word := hi ++ lo

/-- Bits 15..8. -/
def hiByte (w : Word) : Byte := w.extractLsb' 8 8

/-- Bits 7..0. -/
def loByte (w : Word) : Byte := w.extractLsb' 0 8

/-! ### Field codes -/

/-- R73, the fields D D D and S S S. -/
def Operand8.code : Operand8 → BitVec 3
  | .b => 0b000
  | .c => 0b001
  | .d => 0b010
  | .e => 0b011
  | .h => 0b100
  | .l => 0b101
  | .m => 0b110
  | .a => 0b111

/-- R73, read back. -/
def Operand8.ofCode (x : BitVec 3) : Operand8 :=
  match x.toNat with
  | 0 => .b
  | 1 => .c
  | 2 => .d
  | 3 => .e
  | 4 => .h
  | 5 => .l
  | 6 => .m
  | _ => .a

/-- R74, the field R P of LXI, INX, DCX and DAD. -/
def RegPair.code : RegPair → BitVec 2
  | .b => 0b00
  | .d => 0b01
  | .h => 0b10
  | .sp => 0b11

/-- R74, read back. -/
def RegPair.ofCode (x : BitVec 2) : RegPair :=
  match x.toNat with
  | 0 => .b
  | 1 => .d
  | 2 => .h
  | _ => .sp

/-- R74, the field R P of PUSH and POP. -/
def StackPair.code : StackPair → BitVec 2
  | .b => 0b00
  | .d => 0b01
  | .h => 0b10
  | .psw => 0b11

/-- R74, read back. -/
def StackPair.ofCode (x : BitVec 2) : StackPair :=
  match x.toNat with
  | 0 => .b
  | 1 => .d
  | 2 => .h
  | _ => .psw

/-- R74, bit 4 of LDAX and STAX. -/
def IndexPair.code : IndexPair → BitVec 1
  | .b => 0
  | .d => 1

/-! ### Decoding -/

/-- The length of the instruction that begins with `b` (R80). The undefined first bytes have no length; the
decoder refuses them before it asks. -/
def instrLength (b : Byte) : Nat :=
  if b &&& 0xCF = 0x01 ∨ b = 0x22 ∨ b = 0x2A ∨ b = 0x32 ∨ b = 0x3A ∨ b &&& 0xC7 = 0xC2 ∨ b = 0xC3
      ∨ b &&& 0xC7 = 0xC4 ∨ b = 0xCD then 3
  else if b &&& 0xC7 = 0x06 ∨ b &&& 0xC7 = 0xC6 ∨ b = 0xD3 ∨ b = 0xDB then 2
  else 1

/-- Quadrant 00 of R81: bits 5..3 are `y`, bits 2..0 are `z`. -/
def decodeQuadrant0 (v : Variant) (y z : BitVec 3) (b2 b3 : Byte) : Option Instr :=
  let rp := RegPair.ofCode (y.extractLsb' 1 2)
  match z.toNat, y.toNat with
  | 0, 0 => some .nop
  | 0, 4 => if v = .i8085 then some .rim else none
  | 0, 6 => if v = .i8085 then some .sim else none
  | 0, _ => none
  | 1, _ => if y.getLsbD 0 then some (.dad rp) else some (.lxi rp (wordOf b3 b2))
  | 2, 0 => some (.stax .b)
  | 2, 1 => some (.ldax .b)
  | 2, 2 => some (.stax .d)
  | 2, 3 => some (.ldax .d)
  | 2, 4 => some (.shld (wordOf b3 b2))
  | 2, 5 => some (.lhld (wordOf b3 b2))
  | 2, 6 => some (.sta (wordOf b3 b2))
  | 2, _ => some (.lda (wordOf b3 b2))
  | 3, _ => if y.getLsbD 0 then some (.dcx rp) else some (.inx rp)
  | 4, _ => some (.inr (Operand8.ofCode y))
  | 5, _ => some (.dcr (Operand8.ofCode y))
  | 6, _ => some (.mvi (Operand8.ofCode y) b2)
  | _, 0 => some .rlc
  | _, 1 => some .rrc
  | _, 2 => some .ral
  | _, 3 => some .rar
  | _, 4 => some .daa
  | _, 5 => some .cma
  | _, 6 => some .stc
  | _, _ => some .cmc

/-- Quadrant 01 of R81: MOV, but 0x76 is HLT (R85). -/
def decodeQuadrant1 (y z : BitVec 3) : Instr :=
  if y = 6 ∧ z = 6 then .hlt else .mov (Operand8.ofCode y) (Operand8.ofCode z)

/-- Quadrant 10 of R81: the eight accumulator operations. -/
def decodeQuadrant2 (y z : BitVec 3) : Instr :=
  let src := Operand8.ofCode z
  match y.toNat with
  | 0 => .add src
  | 1 => .adc src
  | 2 => .sub src
  | 3 => .sbb src
  | 4 => .ana src
  | 5 => .xra src
  | 6 => .ora src
  | _ => .cmp src

/-- Conditional returns by condition code (R75). -/
def decodeReturn (ccc : BitVec 3) : Instr :=
  match ccc.toNat with
  | 0 => .rnz
  | 1 => .rz
  | 2 => .rnc
  | 3 => .rc
  | 4 => .rpo
  | 5 => .rpe
  | 6 => .rp
  | _ => .rm

/-- Conditional jumps by condition code (R75). -/
def decodeJump (ccc : BitVec 3) (addr : Word) : Instr :=
  match ccc.toNat with
  | 0 => .jnz addr
  | 1 => .jz addr
  | 2 => .jnc addr
  | 3 => .jc addr
  | 4 => .jpo addr
  | 5 => .jpe addr
  | 6 => .jp addr
  | _ => .jm addr

/-- Conditional calls by condition code (R75). -/
def decodeCall (ccc : BitVec 3) (addr : Word) : Instr :=
  match ccc.toNat with
  | 0 => .cnz addr
  | 1 => .cz addr
  | 2 => .cnc addr
  | 3 => .cc addr
  | 4 => .cpo addr
  | 5 => .cpe addr
  | 6 => .cp addr
  | _ => .cm addr

/-- The eight immediate operations of the accumulator (R81, quadrant 11, bits 2..0 = 110). -/
def decodeImmediate (y : BitVec 3) (data : Byte) : Instr :=
  match y.toNat with
  | 0 => .adi data
  | 1 => .aci data
  | 2 => .sui data
  | 3 => .sbi data
  | 4 => .ani data
  | 5 => .xri data
  | 6 => .ori data
  | _ => .cpi data

/-- Quadrant 11 of R81. -/
def decodeQuadrant3 (y z : BitVec 3) (b2 b3 : Byte) : Option Instr :=
  let rp := StackPair.ofCode (y.extractLsb' 1 2)
  match z.toNat, y.toNat with
  | 0, _ => some (decodeReturn y)
  | 1, 1 => some .ret
  | 1, 3 => none
  | 1, 5 => some .pchl
  | 1, 7 => some .sphl
  | 1, _ => some (.pop rp)
  | 2, _ => some (decodeJump y (wordOf b3 b2))
  | 3, 0 => some (.jmp (wordOf b3 b2))
  | 3, 1 => none
  | 3, 2 => some (.outPort b2)
  | 3, 3 => some (.inPort b2)
  | 3, 4 => some .xthl
  | 3, 5 => some .xchg
  | 3, 6 => some .di
  | 3, _ => some .ei
  | 4, _ => some (decodeCall y (wordOf b3 b2))
  | 5, 1 => some (.call (wordOf b3 b2))
  | 5, 3 => none
  | 5, 5 => none
  | 5, 7 => none
  | 5, _ => some (.push rp)
  | 6, _ => some (decodeImmediate y b2)
  | _, _ => some (.rst y)

/-- The instruction whose first byte is `b1`, with `b2` and `b3` the bytes after it (read only where the length
says so): a function of `b1` and the variant (R81, R86). `none` for an undefined first byte (R83, R84). -/
def decodeOpcode (v : Variant) (b1 b2 b3 : Byte) : Option Instr :=
  let y := b1.extractLsb' 3 3
  let z := b1.extractLsb' 0 3
  match (b1.extractLsb' 6 2).toNat with
  | 0 => decodeQuadrant0 v y z b2 b3
  | 1 => some (decodeQuadrant1 y z)
  | 2 => some (decodeQuadrant2 y z)
  | _ => decodeQuadrant3 y z b2 b3

/-- Why some bytes are no instruction. -/
inductive DecodeRefusal where
  /-- The first byte has no row for the variant (R83, R84). -/
  | undefinedOpcode (byte1 : Byte)
  /-- The bytes end before the instruction does. -/
  | truncated
deriving DecidableEq, Repr

/-- The first instruction of a list of bytes, and the bytes after it. -/
def decode (v : Variant) : List Byte → Except DecodeRefusal (Instr × List Byte)
  | [] => .error .truncated
  | b1 :: rest =>
    match decodeOpcode v b1 (rest.getD 0 0) (rest.getD 1 0) with
    | none => .error (.undefinedOpcode b1)
    | some i =>
      if rest.length + 1 < instrLength b1 then .error .truncated
      else .ok (i, rest.drop (instrLength b1 - 1))

/-- The instruction of an opcode-table row whose bits are `w`, bit 0 the least significant bit of the first byte;
every bit from `nbits` on is 0. The table's superset is asked, the 8085's. -/
def decodeTableWord (nbits w : Nat) : Option Instr :=
  let x := w % 2 ^ nbits
  match decode .i8085 [BitVec.ofNat 8 x, BitVec.ofNat 8 (x / 256), BitVec.ofNat 8 (x / 65536)] with
  | .ok (i, _) => some i
  | .error _ => none

/-! ### Encoding -/

/-- `0 0 y z`. -/
def quadrant0 (y z : BitVec 3) : Byte := 0b00#2 ++ y ++ z

/-- `0 1 D D D S S S`. -/
def quadrant1 (y z : BitVec 3) : Byte := 0b01#2 ++ y ++ z

/-- `1 0 o o o S S S`. -/
def quadrant2 (y z : BitVec 3) : Byte := 0b10#2 ++ y ++ z

/-- `1 1 y z`. -/
def quadrant3 (y z : BitVec 3) : Byte := 0b11#2 ++ y ++ z

/-- `0 0 R P q z`. -/
def quadrant0Pair (rp : RegPair) (q : BitVec 1) (z : BitVec 3) : Byte := 0b00#2 ++ rp.code ++ q ++ z

/-- `1 1 R P 0 z`. -/
def quadrant3Pair (rp : StackPair) (z : BitVec 3) : Byte := 0b11#2 ++ rp.code ++ 0#1 ++ z

/-- `0 0 0 P q 0 1 0`. -/
def indexOpcode (rp : IndexPair) (q : BitVec 1) : Byte := 0b000#3 ++ rp.code ++ q ++ 0b010#3

/-- An opcode and an address or sixteen-bit datum, low byte first (R78). -/
def withAddress (b1 : Byte) (w : Word) : List Byte := [b1, loByte w, hiByte w]

/-- The bytes of an instruction, from R71 and R82. A term that is not well-formed has no bytes of its own: for MOV
M,M the pattern gives the byte of HLT (R85). -/
def encode : Instr → List Byte
  | .lda addr => withAddress 0x3A addr
  | .ldax rp => [indexOpcode rp 1]
  | .lhld addr => withAddress 0x2A addr
  | .lxi rp data => withAddress (quadrant0Pair rp 0 1) data
  | .mov dst src => [quadrant1 dst.code src.code]
  | .mvi dst data => [quadrant0 dst.code 6, data]
  | .shld addr => withAddress 0x22 addr
  | .sta addr => withAddress 0x32 addr
  | .stax rp => [indexOpcode rp 0]
  | .xchg => [0xEB]
  | .aci data => [0xCE, data]
  | .adc src => [quadrant2 1 src.code]
  | .add src => [quadrant2 0 src.code]
  | .adi data => [0xC6, data]
  | .daa => [0x27]
  | .dad rp => [quadrant0Pair rp 1 1]
  | .dcr dst => [quadrant0 dst.code 5]
  | .dcx rp => [quadrant0Pair rp 1 3]
  | .inr dst => [quadrant0 dst.code 4]
  | .inx rp => [quadrant0Pair rp 0 3]
  | .sbb src => [quadrant2 3 src.code]
  | .sbi data => [0xDE, data]
  | .sub src => [quadrant2 2 src.code]
  | .sui data => [0xD6, data]
  | .ana src => [quadrant2 4 src.code]
  | .ani data => [0xE6, data]
  | .cma => [0x2F]
  | .cmc => [0x3F]
  | .cmp src => [quadrant2 7 src.code]
  | .cpi data => [0xFE, data]
  | .ora src => [quadrant2 6 src.code]
  | .ori data => [0xF6, data]
  | .ral => [0x17]
  | .rar => [0x1F]
  | .rlc => [0x07]
  | .rrc => [0x0F]
  | .stc => [0x37]
  | .xra src => [quadrant2 5 src.code]
  | .xri data => [0xEE, data]
  | .call addr => withAddress 0xCD addr
  | .cc addr => withAddress 0xDC addr
  | .cm addr => withAddress 0xFC addr
  | .cnc addr => withAddress 0xD4 addr
  | .cnz addr => withAddress 0xC4 addr
  | .cp addr => withAddress 0xF4 addr
  | .cpe addr => withAddress 0xEC addr
  | .cpo addr => withAddress 0xE4 addr
  | .cz addr => withAddress 0xCC addr
  | .jc addr => withAddress 0xDA addr
  | .jm addr => withAddress 0xFA addr
  | .jmp addr => withAddress 0xC3 addr
  | .jnc addr => withAddress 0xD2 addr
  | .jnz addr => withAddress 0xC2 addr
  | .jp addr => withAddress 0xF2 addr
  | .jpe addr => withAddress 0xEA addr
  | .jpo addr => withAddress 0xE2 addr
  | .jz addr => withAddress 0xCA addr
  | .pchl => [0xE9]
  | .rc => [0xD8]
  | .ret => [0xC9]
  | .rm => [0xF8]
  | .rnc => [0xD0]
  | .rnz => [0xC0]
  | .rp => [0xF0]
  | .rpe => [0xE8]
  | .rpo => [0xE0]
  | .rst code => [quadrant3 code 7]
  | .rz => [0xC8]
  | .di => [0xF3]
  | .ei => [0xFB]
  | .hlt => [0x76]
  | .inPort port => [0xDB, port]
  | .nop => [0x00]
  | .outPort port => [0xD3, port]
  | .pop rp => [quadrant3Pair rp 1]
  | .push rp => [quadrant3Pair rp 5]
  | .rim => [0x20]
  | .sim => [0x30]
  | .sphl => [0xF9]
  | .xthl => [0xE3]

end Sys2Proof
end

