-- ==== Sys2Proof/Machine/State.lean ====
section
/-! DEFINITION. The state of the machine (spec/10_state.md R42 and the parameters of spec/00_scope.md R5), the ways a
step can stop, and the state after RESET. -/

namespace Sys2Proof.Machine

/-- The seven general registers (R20). A pair is two of them (R21). -/
structure Regs where
  a : Byte
  b : Byte
  c : Byte
  d : Byte
  e : Byte
  h : Byte
  l : Byte
deriving DecidableEq, Repr

/-- The five condition flags (R26). -/
structure Flags where
  /-- Sign (R27). -/
  s  : Bool
  /-- Zero (R28). -/
  z  : Bool
  /-- Auxiliary carry (R31). -/
  ac : Bool
  /-- Parity (R29). -/
  p  : Bool
  /-- Carry (R30). -/
  cy : Bool
deriving DecidableEq, Repr

/-- The control bits of both processors (R34 to R36). -/
structure Control where
  /-- INTE, the interrupt-enable flag (R34); on the 8080 also the level of the INTE pin (R2 e). -/
  inte       : Bool
  /-- An EI has run and its enable is still to come (R35). -/
  eiPending  : Bool
  /-- The instruction just completed was an EI or a DI (R35, R255). -/
  intInhibit : Bool
  /-- HLT has run and nothing has ended the halt (R36). -/
  halted     : Bool
deriving DecidableEq, Repr

/-- The bits only the 8085 has (R37, R38, R41). With the variant i8080 no operation reads or writes them. -/
structure Ext85 where
  /-- Interrupt mask of RST7.5, 1 = masked (R37). -/
  m75 : Bool
  /-- Interrupt mask of RST6.5 (R37). -/
  m65 : Bool
  /-- Interrupt mask of RST5.5 (R37). -/
  m55 : Bool
  /-- The RST7.5 flip-flop R7_5 (R38). -/
  r75 : Bool
  /-- The serial output data latch (R41). -/
  sod : Bool
deriving DecidableEq, Repr

/-- The whole state. `platform`, `io`, `env` and `tick` are the parameters of R5 and the model's own fields
(INVENTORY.md, State); everything else is R42. -/
structure State where
  regs     : Regs
  flags    : Flags
  /-- The stack pointer (R23). -/
  sp       : Word
  /-- The program counter (R24). A meaning finds it already moved past its instruction: R25's `next` (entry 32). -/
  pc       : Word
  ctl      : Control
  ext      : Ext85
  /-- Variant, memory map and interrupt priority: no step changes them. -/
  platform : Platform
  /-- Memory in canonical form: addresses strictly rising, no entry equal to what an unlisted address reads as. -/
  mem      : List Host.Cell
  /-- The port accesses so far, oldest first (R225, D20). -/
  io       : List IoEvent
  /-- What the environment presents at the coming boundaries, one entry a step; past the end `Inputs.quiet`. -/
  env      : List Inputs
  /-- How many steps have been taken: the index of the free values. -/
  tick     : Nat
deriving DecidableEq, Repr

/-- The hardware raises no synchronous exception (R250), and every memory access of a well-formed address answers a
byte (R53, R57, R58): no step ends in a fault, so there is none to name. -/
inductive Fault where
deriving DecidableEq, Repr

/-- The verdicts of the model (R251) that end a run. -/
inductive Refusal where
  /-- Raised by an arm of `exec` whose instruction has no meaning yet. Safe: nothing is claimed of it. No arm of this
  model raises it. -/
  | notModelled (mnemonic : String)
  /-- `Undefined(byte1)`: raised by a step whose first byte has no row for the variant (R83, R84, R251), and by the
  meanings of RIM and SIM on the 8080 (R84). Safe: the spec gives the byte no meaning. -/
  | undefinedOpcode (byte1 : Byte)
  /-- `BadInterruptInstruction(b)`: raised by an accepted INT whose device supplies the first byte of a two- or
  three-byte instruction, or an undefined byte (R251, R257). Safe: the spec refuses it. -/
  | badInterruptInstruction (b : Byte)
  /-- Raised by `exec` on the term MOV M,M, which "is not permitted" (R104) and which no byte decodes to (R85). Safe:
  no step reaches it. -/
  | movMemoryToMemory
deriving DecidableEq, Repr

/-- The machine right after RESET (R43, R290): pc, INTE, EiPending, IntInhibit, Halted and R7_5 as the spec states
them. DESIGN CHOICE: the general registers, SP and the flags are 0 (entries 2, 3, 4). PRESUMED: the 8085's masks are 1
and SOD 0 (G9, entry 5). DESIGN CHOICE: variant i8085, all RAM, nothing listed in memory, no input (entries 1, 7, 6,
14). PRESUMED: the priority of G8 (entry 15). -/
def State.reset : State :=
  { regs := { a := 0, b := 0, c := 0, d := 0, e := 0, h := 0, l := 0 }
    flags := { s := false, z := false, ac := false, p := false, cy := false }
    sp := 0
    pc := 0
    ctl := { inte := false, eiPending := false, intInhibit := false, halted := false }
    ext := { m75 := true, m65 := true, m55 := true, r75 := false, sod := false }
    platform := { variant := .i8085, memMap := [], priority := [.trap, .rst75, .rst65, .rst55, .int] }
    mem := []
    io := []
    env := []
    tick := 0 }

end Sys2Proof.Machine
end

