-- ==== Sys2Proof/Machine/Ops.lean ====
section
/-! DEFINITION. The operations every meaning is built from: memory (spec/20_memory.md), the stack (R65, R66), the
program counter (R25), the I/O space (R51), and taking an interrupt and returning from one (spec/60_exceptions.md). -/

namespace Sys2Proof.Machine

/-- What a meaning and a step answer. -/
abbrev Result := Host.Outcome State Fault Refusal

/-! ### Memory as data -/

/-- What an address that no entry lists reads as. DESIGN CHOICE, unsafe: the spec leaves the initial contents open
(R57, D29; entry 6). -/
def Memory.fill : Byte := 0

/-- The byte listed for an address, else `fill`. -/
def Memory.read : List Host.Cell → Nat → Byte
  | [], _ => Memory.fill
  | (b, w) :: rest, a => if a = b then w else Memory.read rest a

/-- Write one byte and keep the canonical form. -/
def Memory.write : List Host.Cell → Nat → Byte → List Host.Cell
  | [], a, v => if v = Memory.fill then [] else [(a, v)]
  | (b, w) :: rest, a, v =>
    if a < b then
      if v = Memory.fill then (b, w) :: rest else (a, v) :: (b, w) :: rest
    else if a = b then
      if v = Memory.fill then rest else (b, v) :: rest
    else (b, w) :: Memory.write rest a v

/-- Every address of the list is at least `lo` and below 2^16, they rise strictly, and no byte is `fill`. -/
def Memory.wfFrom (lo : Nat) : List Host.Cell → Bool
  | [] => true
  | (a, v) :: rest => decide (lo ≤ a) && decide (a < 65536) && (v != Memory.fill) && Memory.wfFrom (a + 1) rest

/-- The canonical form. -/
def Memory.wf (m : List Host.Cell) : Bool := Memory.wfFrom 0 m

/-- What the memory map puts at an address (R57): the first region that holds it, else RAM. -/
def kindIn (map : List Region) (a : Nat) : MemKind :=
  match map with
  | [] => .ram
  | r :: rest => if r.first ≤ a ∧ a ≤ r.last then r.kind else kindIn rest a

/-! ### Accesses of the processor -/

/-- The processor of this state (R2). -/
def State.variant (s : State) : Variant := s.platform.variant

/-- `MemKind` at an address. -/
def State.kindAt (s : State) (a : Word) : MemKind := kindIn s.platform.memMap a.toNat

/-- One byte read (R54): the stored byte of RAM or ROM; where nothing is, a free value for this step, phase and
address (R57, D6; entry 9). -/
def State.readAs (s : State) (phase : ReadPhase) (a : Word) : Byte :=
  match s.kindAt a with
  | .absent => Config.openBus s.tick phase a.toNat
  | _ => Memory.read s.mem a.toNat

/-- `MemRead(a, 1)`: a data read. -/
def State.read8 (s : State) (a : Word) : Byte := s.readAs .data a

/-- A read of an instruction byte (R50: the same space). -/
def State.fetch8 (s : State) (a : Word) : Byte := s.readAs .fetch a

/-- `MemWrite(a, 1, v)`: RAM takes the byte. DESIGN CHOICE among the two treatments of D6: a write to ROM or to
nothing is ignored (entry 8). -/
def State.write8 (s : State) (a : Word) (v : Byte) : State :=
  match s.kindAt a with
  | .ram => { s with mem := Memory.write s.mem a.toNat v }
  | _ => s

/-! ### The other agent on the bus -/

/-- What the environment presents at this boundary and during this step. -/
def State.now (s : State) : Inputs := s.env.headD Inputs.quiet

/-- Some DMA writes, one after another; where there is no RAM they are ignored, as the processor's are. -/
def State.applyDma (s : State) (ws : List DmaWrite) : State := ws.foldl (fun t w => t.write8 w.addr w.byte) s

/-- The DMA writes of this step at one gap. -/
def State.dmaAt (s : State) (g : BusGap) : List DmaWrite := s.now.dma.filter (fun w => w.gap = g)

/-- The DMA agent's turn at one gap between two byte accesses of the processor (R54, R61, R68). -/
def State.dmaTurn (s : State) (g : BusGap) : State := s.applyDma (s.dmaAt g)

/-! ### Sixteen-bit accesses: two byte accesses, not atomic -/

/-- The value of `MemRead(a, 2)` (R54): low byte at `a`, then high byte at `a + 1` modulo 2^16. Between the two the DMA
agent has its turn; the state after them is `s.dmaTurn .data2`. -/
def State.read16 (s : State) (a : Word) : Word := wordOf ((s.dmaTurn .data2).read8 (a + 1)) (s.read8 a)

/-- `MemWrite(a, 2, v)` (R54): low byte at `a`, the DMA agent's turn, high byte at `a + 1` modulo 2^16. -/
def State.write16 (s : State) (a : Word) (v : Word) : State :=
  ((s.write8 a (loByte v)).dmaTurn .data2).write8 (a + 1) (hiByte v)

/-! ### The stack -/

/-- `Push16` (R65): the high byte at SP - 1, the DMA agent's turn, then the low byte at SP - 2, where SP ends. -/
def State.push16 (s : State) (v : Word) : State :=
  let s1 := { s with sp := s.sp - 1 }
  let s2 := (s1.write8 s1.sp (hiByte v)).dmaTurn .data2
  let s3 := { s2 with sp := s2.sp - 1 }
  s3.write8 s3.sp (loByte v)

/-- The value `Pop16` returns (R66): low byte at SP, the DMA agent's turn, high byte at SP + 1. -/
def State.top16 (s : State) : Word := s.read16 s.sp

/-- What `Pop16` does to the state (R66): SP moves up by two; it writes no memory, and the DMA agent has had its turn
between its two reads. -/
def State.drop16 (s : State) : State := { s.dmaTurn .data2 with sp := s.sp + 2 }

/-! ### The program counter -/

/-- The state in which byte `k` of an instruction is fetched: the DMA agent has its turn between two fetches (R54). -/
def State.beforeByte (s : State) : Nat → State
  | 0 => s
  | 1 => s.dmaTurn .secondByte
  | _ => (s.dmaTurn .secondByte).dmaTurn .thirdByte

/-- R25: the program counter moves past an instruction of `len` bytes, modulo 2^16. -/
def State.advance (s : State) (len : Nat) : State := { s with pc := s.pc + BitVec.ofNat 16 len }

/-- The state in which an instruction of `len` bytes is executed once they have been fetched: pc past it (R25), and the
DMA agent's turns behind it, the last before the first data access. -/
def State.afterFetch (s : State) (len : Nat) : State := ((s.beforeByte (len - 1)).dmaTurn .data1).advance len

/-- `pc <- target`. -/
def State.jump (s : State) (target : Word) : State := { s with pc := target }

/-- `Push16(pc); pc <- target` (R181, R209): the program counter pushed is the one the meaning finds, R25's `next`. -/
def State.callTo (s : State) (target : Word) : State := (s.push16 s.pc).jump target

/-- `pc <- Pop16()` (R181, R202): the return from a subroutine, and from an interrupt too (R263: there is no other). -/
def State.returnFrom (s : State) : State := s.drop16.jump s.top16

/-! ### The environment of a step -/

/-- The serial input bit at this instant (R41): given by the environment, else a free value (entry 13). -/
def State.sidBit (s : State) : Bool := s.now.sid.getD (Config.sid s.tick)

/-- The byte `PortIn` delivers (R223): given by the environment, else a free function of the history and the port
(entry 12). -/
def State.portByte (s : State) (port : Byte) : Byte := s.now.portIn.getD (Config.portIn s.io port)

/-- `IoRead(port)` and `IoWrite(port, v)` are recorded in order (R64, D20; entry 35). -/
def State.record (s : State) (e : IoEvent) : State := { s with io := s.io ++ [e] }

/-- The sixteen-bit address bus during an OUT: the port number twice (R51, R225). The spec says it of OUT only (N33). -/
def ioBusAddress : IoEvent → Option Word
  | .portRead _ _ => none
  | .portWrite port _ => some (wordOf port port)

/-- R9 (0), R260 and R68, at every boundary before anything else: the DMA agent's bytes are written, and on the 8085 an
edge on RST7.5 sets the flip-flop whatever INTE, the mask and IntInhibit are. -/
def State.boundary (s : State) : State :=
  let s1 := s.dmaTurn .boundary
  if s1.variant = .i8085 ∧ s1.now.rst75 = true then { s1 with ext.r75 := true } else s1

/-- The step is over: the next boundary's inputs come up, and the free values move on. -/
def State.endStep (s : State) : State := { s with env := s.env.tail, tick := s.tick + 1 }

/-! ### Interrupts -/

/-- The sources in the order used where the platform's list names none of them: G8 (R261; entry 15). -/
def allSources : List IntSource := [.trap, .rst75, .rst65, .rst55, .int]

/-- R254: whether a source requests and is not disabled or masked. -/
def State.acceptable (s : State) : IntSource → Bool
  | .int => s.now.int && s.ctl.inte
  | .trap => decide (s.variant = .i8085) && s.now.trap
  | .rst75 => decide (s.variant = .i8085) && s.ext.r75 && !s.ext.m75 && s.ctl.inte
  | .rst65 => decide (s.variant = .i8085) && s.now.rst65 && !s.ext.m65 && s.ctl.inte
  | .rst55 => decide (s.variant = .i8085) && s.now.rst55 && !s.ext.m55 && s.ctl.inte

/-- The request accepted at this boundary, if any: none while IntInhibit is 1 (R255) or where the oracle does not
accept (R254), else the first acceptable one in the platform's order (R261: exactly one). -/
def State.accepted (s : State) : Option IntSource :=
  if s.ctl.intInhibit || !s.now.accept then none
  else (s.platform.priority ++ allSources).find? s.acceptable

/-- "The interrupt system is disabled when the processor recognizes an interrupt", and the halt ends: the first line
of R257 and R258. -/
def State.recognise (s : State) : State := { s with ctl.inte := false, ctl.halted := false }

/-- TAKING AN INTERRUPT (R258, R259): the interrupt system is disabled, the halt ends, the program counter of the
interrupted program is pushed, and control goes to the restart address; nothing else is saved (R265). The return from
it is `State.returnFrom` (R263). -/
def State.enterRestart (s : State) (target : Word) : State :=
  let s1 := s.recognise.callTo target
  { s1 with ctl.eiPending := false, ctl.intInhibit := false }

/-- The restart addresses of R253. INT has none: its device supplies an instruction (R252). -/
def restartAddress : IntSource → Word
  | .int => 0
  | .trap => 0x0024
  | .rst55 => 0x002C
  | .rst65 => 0x0034
  | .rst75 => 0x003C

/-- R258: recognising RST7.5 resets its flip-flop; the other sources have no flip-flop to reset. -/
def State.clearRequest (s : State) (src : IntSource) : State :=
  if src = .rst75 then { s with ext.r75 := false } else s

/-- The completion rule (R256), for an instruction `i` before which EiPending was `p`. -/
def State.complete (s : State) (p : Bool) (i : Instr) : State :=
  { s with
    ctl.inte := if p = true ∧ i ≠ .di then true else s.ctl.inte
    ctl.eiPending := if i = .ei then s.ctl.eiPending else false
    ctl.intInhibit := decide (i = .ei ∨ i = .di) }

/-! ### RESET -/

/-- `ResetValue` of the general registers for a RESET at step `n` (D9; entry 16). -/
def resetRegs (n : Nat) : Regs :=
  { a := Config.resetByte n 7, b := Config.resetByte n 0, c := Config.resetByte n 1, d := Config.resetByte n 2
    e := Config.resetByte n 3, h := Config.resetByte n 4, l := Config.resetByte n 5 }

/-- `ResetValue` of the flags for a RESET at step `n` (D9; entry 16). -/
def resetFlags (n : Nat) : Flags :=
  { s := Config.resetFlag n 7, z := Config.resetFlag n 6, ac := Config.resetFlag n 4, p := Config.resetFlag n 2
    cy := Config.resetFlag n 0 }

/-- The 8085's bits after a RESET at step `n`: R7_5 is 0 (R38, R290), the mask and SOD are draws (D22; entry 16). -/
def resetExt (n : Nat) : Ext85 :=
  { m75 := (Config.resetMask n).getLsbD 2, m65 := (Config.resetMask n).getLsbD 1
    m55 := (Config.resetMask n).getLsbD 0, r75 := false, sod := Config.resetSod n }

/-- The RESET signal in any state (R274, R290): pc, INTE, EiPending, IntInhibit, Halted and R7_5 are forced, memory is
not changed, and what the spec states no value for is a free value (R292). -/
def State.applyReset (s : State) : State :=
  { s with
    regs := resetRegs s.tick
    flags := resetFlags s.tick
    sp := Config.resetSp s.tick
    pc := 0
    ctl := { inte := false, eiPending := false, intInhibit := false, halted := false }
    ext := if s.variant = .i8085 then resetExt s.tick else s.ext }

end Sys2Proof.Machine
end

