-- ==== Sys2Proof/Machine/Operands.lean ====
section
/-! DEFINITION. The operand forms of spec/30_encoding.md R73, R74, R88: what each reads and what each writes. -/

namespace Sys2Proof.Machine

/-- BC = B:C (R21). -/
def Regs.bc (r : Regs) : Word := wordOf r.b r.c

/-- DE = D:E (R21). -/
def Regs.de (r : Regs) : Word := wordOf r.d r.e

/-- HL = H:L (R21). -/
def Regs.hl (r : Regs) : Word := wordOf r.h r.l

/-- `BC <- v`. -/
def State.setBC (s : State) (v : Word) : State := { s with regs.b := hiByte v, regs.c := loByte v }

/-- `DE <- v`. -/
def State.setDE (s : State) (v : Word) : State := { s with regs.d := hiByte v, regs.e := loByte v }

/-- `HL <- v`. -/
def State.setHL (s : State) (v : Word) : State := { s with regs.h := hiByte v, regs.l := loByte v }

/-- `A <- v`. -/
def State.setA (s : State) (v : Byte) : State := { s with regs.a := v }

/-- `r8[c]` (R7): a register, or the memory byte at HL (R22). -/
def State.readOperand (s : State) : Operand8 → Byte
  | .b => s.regs.b
  | .c => s.regs.c
  | .d => s.regs.d
  | .e => s.regs.e
  | .h => s.regs.h
  | .l => s.regs.l
  | .m => s.read8 s.regs.hl
  | .a => s.regs.a

/-- `r8[c] <- v` (R7): a register, or the memory byte at HL (R22). -/
def State.writeOperand (s : State) (o : Operand8) (v : Byte) : State :=
  match o with
  | .b => { s with regs.b := v }
  | .c => { s with regs.c := v }
  | .d => { s with regs.d := v }
  | .e => { s with regs.e := v }
  | .h => { s with regs.h := v }
  | .l => { s with regs.l := v }
  | .m => s.write8 s.regs.hl v
  | .a => { s with regs.a := v }

/-- INR and DCR on an operand: read, then write `f` of what was read. On M the two are separate byte accesses, and the
DMA agent has its turn between them (R61). -/
def State.modifyOperand (s : State) (o : Operand8) (f : Byte → Byte) : State :=
  match o with
  | .m => (s.dmaTurn .data2).write8 s.regs.hl (f (s.read8 s.regs.hl))
  | _ => s.writeOperand o (f (s.readOperand o))

/-- `rp[c]` (R7). -/
def State.readPair (s : State) : RegPair → Word
  | .b => s.regs.bc
  | .d => s.regs.de
  | .h => s.regs.hl
  | .sp => s.sp

/-- `rp[c] <- v` (R7). -/
def State.writePair (s : State) (rp : RegPair) (v : Word) : State :=
  match rp with
  | .b => s.setBC v
  | .d => s.setDE v
  | .h => s.setHL v
  | .sp => { s with sp := v }

/-- The address LDAX and STAX use (R101, R108). -/
def State.readIndex (s : State) : IndexPair → Word
  | .b => s.regs.bc
  | .d => s.regs.de

end Sys2Proof.Machine
end

