-- ==== Sys2Proof/Machine/Flags.lean ====
section
/-! DEFINITION. Every flag computation: SetSZP (spec/00_scope.md R8), Add8, Sub8, DAA and the increments
(spec/41_arithmetic.md), Logic (spec/42_logical.md R150), the flag byte (spec/10_state.md R32), the conditions
(spec/43_branch.md R180). -/

namespace Sys2Proof.Machine

/-- `parity(v)` (R29): whether the number of 1 bits is even. -/
def parityEven (v : Byte) : Bool :=
  ((v.getLsbD 0).toNat + (v.getLsbD 1).toNat + (v.getLsbD 2).toNat + (v.getLsbD 3).toNat + (v.getLsbD 4).toNat
    + (v.getLsbD 5).toNat + (v.getLsbD 6).toNat + (v.getLsbD 7).toNat) % 2 = 0

/-- `SetSZP(v)` (R8): S, Z and P from a result, the other flags kept. -/
def Flags.setSZP (f : Flags) (v : Byte) : Flags :=
  { f with s := v.getLsbD 7, z := decide (v = 0), p := parityEven v }

/-- The low four bits as a natural number. -/
abbrev lowDigit (v : Byte) : Nat := v.toNat % 16

/-- `Add8(a, v, c)` (R120): result and flags; the flags given in are all written. That the carry-in takes part in AC is
the spec's general knowledge G22 (entry 21). -/
def add8 (a v : Byte) (c : Bool) (f : Flags) : Byte × Flags :=
  let t := a.toNat + v.toNat + c.toNat
  let r := BitVec.ofNat 8 t
  (r, { f.setSZP r with
        cy := decide (256 ≤ t), ac := decide (16 ≤ lowDigit a + lowDigit v + c.toNat) })

/-- `Sub8(a, v, b)` (R121): the two's complement addition of three terms; CY is its carry complemented, AC its carry
out of bit 3 (D26, C12; entry 21). -/
def sub8 (a v : Byte) (b : Bool) (f : Flags) : Byte × Flags :=
  let t := a.toNat + (~~~v).toNat + (1 - b.toNat)
  let r := BitVec.ofNat 8 t
  (r, { f.setSZP r with
        cy := decide (t < 256), ac := decide (16 ≤ lowDigit a + lowDigit (~~~v) + (1 - b.toNat)) })

/-- `Logic(op, v)` (R150) after the operation: SetSZP of the result, CY 0, AC as the operation says. -/
def Flags.logic (f : Flags) (r : Byte) (ac : Bool) : Flags := { f.setSZP r with cy := false, ac := ac }

/-- INR (R130): S, Z, P of the result, AC the carry out of bit 3 of adding one; CY kept. -/
def Flags.increment (f : Flags) (v : Byte) : Flags :=
  { f.setSZP (v + 1) with ac := decide (lowDigit v = 15) }

/-- DCR (R128): S, Z, P of the result, AC 1 unless the low digit was 0 (D26; entry 21); CY kept. -/
def Flags.decrement (f : Flags) (v : Byte) : Flags :=
  { f.setSZP (v - 1) with ac := decide (lowDigit v ≠ 0) }

/-- DAA (R126): the result and the flags. The algorithm is the spec's general knowledge G5 (entry 20). -/
def daa8 (a0 : Byte) (f : Flags) : Byte × Flags :=
  let adjustLow : Bool := decide (9 < lowDigit a0) || f.ac
  let t1 := if adjustLow then a0.toNat + 6 else a0.toNat
  let ac1 := adjustLow && decide (16 ≤ lowDigit a0 + 6)
  let t2 := if 9 < t1 / 16 ∨ f.cy = true then t1 + 0x60 else t1
  let r := BitVec.ofNat 8 t2
  (r, { f.setSZP r with ac := ac1, cy := decide (256 ≤ t2) || f.cy })

/-- DAD (R127): the sum and its carry out of bit 15. -/
def add16 (x y : Word) : Word × Bool :=
  let t := x.toNat + y.toNat
  (BitVec.ofNat 16 t, decide (65536 ≤ t))

/-- The bits 5, 3, 1 of the flag byte that PUSH PSW stores (R32): 0, 0, 1 on the 8080; undefined on the 8085, a free
value for each step (D11; entry 11). -/
def fillerBits (v : Variant) (tick : Nat) : BitVec 3 :=
  match v with
  | .i8080 => 0b001
  | .i8085 => Config.filler8085 tick

/-- `FlagByte = S : Z : f5 : AC : f3 : P : f1 : CY` (R32). -/
def Flags.toByte (f : Flags) (filler : BitVec 3) : Byte :=
  BitVec.ofBool f.s ++ BitVec.ofBool f.z ++ filler.extractLsb' 2 1 ++ BitVec.ofBool f.ac ++ filler.extractLsb' 1 1
    ++ BitVec.ofBool f.p ++ filler.extractLsb' 0 1 ++ BitVec.ofBool f.cy

/-- The flags POP PSW loads; bits 5, 3 and 1 of the byte are discarded (R226, D12; entry 23). -/
def Flags.ofByte (v : Byte) : Flags :=
  { s := v.getLsbD 7, z := v.getLsbD 6, ac := v.getLsbD 4, p := v.getLsbD 2, cy := v.getLsbD 0 }

/-- The eight conditions (R180). -/
inductive Cond where
  | nz
  | z
  | nc
  | c
  | po
  | pe
  | p
  | m
deriving DecidableEq, Repr

/-- `Cond(ccc)` (R180): the column "taken when". -/
def Flags.holds (f : Flags) : Cond → Bool
  | .nz => !f.z
  | .z => f.z
  | .nc => !f.cy
  | .c => f.cy
  | .po => !f.p
  | .pe => f.p
  | .p => !f.s
  | .m => f.s

/-! ### The results written to the accumulator -/

/-- A result for A with its flags. -/
def State.setAFlags (s : State) (r : Byte × Flags) : State := { s with regs.a := r.1, flags := r.2 }

/-- Add `v` and a carry-in to A (R120). -/
def State.addToA (s : State) (v : Byte) (c : Bool) : State := s.setAFlags (add8 s.regs.a v c s.flags)

/-- Subtract `v` and a borrow-in from A (R121). -/
def State.subFromA (s : State) (v : Byte) (b : Bool) : State := s.setAFlags (sub8 s.regs.a v b s.flags)

/-- Compare `v` with A (R155): the flags of the subtraction, A unchanged. -/
def State.compareWithA (s : State) (v : Byte) : State :=
  { s with flags := (sub8 s.regs.a v false s.flags).2 }

/-- `Logic(AND, v)` (R150): AC is the open parameter `AndAux` (entry 10). -/
def State.andWithA (s : State) (v : Byte) : State :=
  let r := s.regs.a &&& v
  s.setAFlags (r, s.flags.logic r (Config.andAux s.variant s.regs.a v))

/-- `Logic(OR, v)` (R150). -/
def State.orWithA (s : State) (v : Byte) : State :=
  let r := s.regs.a ||| v
  s.setAFlags (r, s.flags.logic r false)

/-- `Logic(XOR, v)` (R150). -/
def State.xorWithA (s : State) (v : Byte) : State :=
  let r := s.regs.a ^^^ v
  s.setAFlags (r, s.flags.logic r false)

/-- A rotate (R159 to R162): the new A and CY; no other flag. -/
def State.rotated (s : State) (a : Byte) (cy : Bool) : State := { s with regs.a := a, flags.cy := cy }

/-- What a stack pair pushes (R227): the pair, or A and the flag byte. -/
def State.readStackPair (s : State) : StackPair → Word
  | .b => s.regs.bc
  | .d => s.regs.de
  | .h => s.regs.hl
  | .psw => wordOf s.regs.a (s.flags.toByte (fillerBits s.variant s.tick))

/-- What a stack pair takes from the stack (R226): the pair, or A and the flags. -/
def State.writeStackPair (s : State) (rp : StackPair) (v : Word) : State :=
  match rp with
  | .b => s.setBC v
  | .d => s.setDE v
  | .h => s.setHL v
  | .psw => { s with regs.a := hiByte v, flags := Flags.ofByte (loByte v) }

/-! ### The bytes of RIM and SIM -/

/-- The byte RIM loads (R39, R228): SID, I7.5, I6.5, I5.5, IE, M7.5, M6.5, M5.5, bit 7 first. I6.5 and I5.5 are the
levels of the pins, gated by nothing (D24; entry 28). -/
def State.rimByte (s : State) : Byte :=
  BitVec.ofBool s.sidBit ++ BitVec.ofBool s.ext.r75 ++ BitVec.ofBool s.now.rst65 ++ BitVec.ofBool s.now.rst55
    ++ BitVec.ofBool s.ctl.inte ++ BitVec.ofBool s.ext.m75 ++ BitVec.ofBool s.ext.m65 ++ BitVec.ofBool s.ext.m55

/-- What SIM does with A (R40, R229): three independent parts; bit 5 is ignored (D23; entry 28). -/
def Ext85.setBy (x : Ext85) (a : Byte) : Ext85 :=
  { m75 := if a.getLsbD 3 then a.getLsbD 2 else x.m75
    m65 := if a.getLsbD 3 then a.getLsbD 1 else x.m65
    m55 := if a.getLsbD 3 then a.getLsbD 0 else x.m55
    r75 := if a.getLsbD 4 then false else x.r75
    sod := if a.getLsbD 6 then a.getLsbD 7 else x.sod }

end Sys2Proof.Machine
end

