-- ==== Sys2Proof/Machine/Arithmetic.lean ====
section
/-! DEFINITION. The meanings of the arithmetic instructions (spec/41_arithmetic.md). A meaning finds pc already at the next
instruction (R25) and leaves it there unless it writes pc. -/

namespace Sys2Proof.Machine

/-- ACI (R122): `A <- Add8(A, byte2, CY)`. -/
def execAci (data : Byte) (s : State) : Result :=
  .next (s.addToA data s.flags.cy)

/-- ADC (R123): `A <- Add8(A, r8[sss], CY)`. -/
def execAdc (src : Operand8) (s : State) : Result :=
  .next (s.addToA (s.readOperand src) s.flags.cy)

/-- ADD (R124): `A <- Add8(A, r8[sss], 0)`. -/
def execAdd (src : Operand8) (s : State) : Result :=
  .next (s.addToA (s.readOperand src) false)

/-- ADI (R125): `A <- Add8(A, byte2, 0)`. -/
def execAdi (data : Byte) (s : State) : Result :=
  .next (s.addToA data false)

/-- DAA (R126). -/
def execDaa (s : State) : Result :=
  .next (s.setAFlags (daa8 s.regs.a s.flags))

/-- DAD (R127): `HL <- HL + rp` modulo 2^16; CY is the carry out of bit 15, no other flag is written. -/
def execDad (rp : RegPair) (s : State) : Result :=
  let r := add16 s.regs.hl (s.readPair rp)
  .next { s.setHL r.1 with flags.cy := r.2 }

/-- DCR (R128): the operand less one, on M a read and then a write (R61); S, Z, P and AC. -/
def execDcr (dst : Operand8) (s : State) : Result :=
  let v := s.readOperand dst
  .next { s.modifyOperand dst (· - 1) with flags := s.flags.decrement v }

/-- DCX (R129): `rp <- rp - 1` modulo 2^16; no flag. -/
def execDcx (rp : RegPair) (s : State) : Result :=
  .next (s.writePair rp (s.readPair rp - 1))

/-- INR (R130): the operand plus one, on M a read and then a write (R61); S, Z, P and AC. -/
def execInr (dst : Operand8) (s : State) : Result :=
  let v := s.readOperand dst
  .next { s.modifyOperand dst (· + 1) with flags := s.flags.increment v }

/-- INX (R131): `rp <- rp + 1` modulo 2^16; no flag. -/
def execInx (rp : RegPair) (s : State) : Result :=
  .next (s.writePair rp (s.readPair rp + 1))

/-- SBB (R132): `A <- Sub8(A, r8[sss], CY)`. -/
def execSbb (src : Operand8) (s : State) : Result :=
  .next (s.subFromA (s.readOperand src) s.flags.cy)

/-- SBI (R133): `A <- Sub8(A, byte2, CY)`. -/
def execSbi (data : Byte) (s : State) : Result :=
  .next (s.subFromA data s.flags.cy)

/-- SUB (R134): `A <- Sub8(A, r8[sss], 0)`. -/
def execSub (src : Operand8) (s : State) : Result :=
  .next (s.subFromA (s.readOperand src) false)

/-- SUI (R135): `A <- Sub8(A, byte2, 0)`. -/
def execSui (data : Byte) (s : State) : Result :=
  .next (s.subFromA data false)

end Sys2Proof.Machine
end

