-- ==== Sys2Proof/Machine/Branch.lean ====
section
/-! DEFINITION. The meanings of the jump, call, return and restart instructions (spec/43_branch.md). A meaning finds pc already at the next
instruction (R25) and leaves it there unless it writes pc. -/

namespace Sys2Proof.Machine

/-- `JumpIf` (R181). -/
def State.jumpIf (s : State) (cond : Cond) (addr : Word) : State := if s.flags.holds cond then s.jump addr else s

/-- `CallIf` (R181): not taken, there is no stack access. -/
def State.callIf (s : State) (cond : Cond) (addr : Word) : State := if s.flags.holds cond then s.callTo addr else s

/-- `RetIf` (R181): not taken, there is no stack access. -/
def State.returnIf (s : State) (cond : Cond) : State := if s.flags.holds cond then s.returnFrom else s

/-- CALL (R182): `Push16(next); pc <- addr`. -/
def execCall (addr : Word) (s : State) : Result :=
  .next (s.callTo addr)

/-- CC (R183): `CallIf(CY = 1)`. -/
def execCc (addr : Word) (s : State) : Result :=
  .next (s.callIf .c addr)

/-- CM (R184): `CallIf(S = 1)`. -/
def execCm (addr : Word) (s : State) : Result :=
  .next (s.callIf .m addr)

/-- CNC (R185): `CallIf(CY = 0)`. -/
def execCnc (addr : Word) (s : State) : Result :=
  .next (s.callIf .nc addr)

/-- CNZ (R186): `CallIf(Z = 0)`. -/
def execCnz (addr : Word) (s : State) : Result :=
  .next (s.callIf .nz addr)

/-- CP (R187): `CallIf(S = 0)`. -/
def execCp (addr : Word) (s : State) : Result :=
  .next (s.callIf .p addr)

/-- CPE (R188): `CallIf(P = 1)`. -/
def execCpe (addr : Word) (s : State) : Result :=
  .next (s.callIf .pe addr)

/-- CPO (R189): `CallIf(P = 0)`. -/
def execCpo (addr : Word) (s : State) : Result :=
  .next (s.callIf .po addr)

/-- CZ (R190): `CallIf(Z = 1)`. -/
def execCz (addr : Word) (s : State) : Result :=
  .next (s.callIf .z addr)

/-- JC (R191): `JumpIf(CY = 1)`. -/
def execJc (addr : Word) (s : State) : Result :=
  .next (s.jumpIf .c addr)

/-- JM (R192): `JumpIf(S = 1)`. -/
def execJm (addr : Word) (s : State) : Result :=
  .next (s.jumpIf .m addr)

/-- JMP (R193): `pc <- addr`, with no condition (C1). -/
def execJmp (addr : Word) (s : State) : Result :=
  .next (s.jump addr)

/-- JNC (R194): `JumpIf(CY = 0)`. -/
def execJnc (addr : Word) (s : State) : Result :=
  .next (s.jumpIf .nc addr)

/-- JNZ (R195): `JumpIf(Z = 0)`. -/
def execJnz (addr : Word) (s : State) : Result :=
  .next (s.jumpIf .nz addr)

/-- JP (R196): `JumpIf(S = 0)`. -/
def execJp (addr : Word) (s : State) : Result :=
  .next (s.jumpIf .p addr)

/-- JPE (R197): `JumpIf(P = 1)`. -/
def execJpe (addr : Word) (s : State) : Result :=
  .next (s.jumpIf .pe addr)

/-- JPO (R198): `JumpIf(P = 0)`. -/
def execJpo (addr : Word) (s : State) : Result :=
  .next (s.jumpIf .po addr)

/-- JZ (R199): `JumpIf(Z = 1)`. -/
def execJz (addr : Word) (s : State) : Result :=
  .next (s.jumpIf .z addr)

/-- PCHL (R200): `pc <- HL`. -/
def execPchl (s : State) : Result :=
  .next (s.jump s.regs.hl)

/-- RC (R201): `RetIf(CY = 1)`. -/
def execRc (s : State) : Result :=
  .next (s.returnIf .c)

/-- RET (R202): `pc <- Pop16()`. -/
def execRet (s : State) : Result :=
  .next s.returnFrom

/-- RM (R203): `RetIf(S = 1)`. -/
def execRm (s : State) : Result :=
  .next (s.returnIf .m)

/-- RNC (R204): `RetIf(CY = 0)`. -/
def execRnc (s : State) : Result :=
  .next (s.returnIf .nc)

/-- RNZ (R205): `RetIf(Z = 0)`. -/
def execRnz (s : State) : Result :=
  .next (s.returnIf .nz)

/-- RP (R206): `RetIf(S = 0)`. -/
def execRp (s : State) : Result :=
  .next (s.returnIf .p)

/-- RPE (R207): `RetIf(P = 1)`. -/
def execRpe (s : State) : Result :=
  .next (s.returnIf .pe)

/-- RPO (R208): `RetIf(P = 0)`. -/
def execRpo (s : State) : Result :=
  .next (s.returnIf .po)

/-- RST (R209): `Push16(next); pc <- 8 * code`. -/
def execRst (code : BitVec 3) (s : State) : Result :=
  .next (s.callTo (BitVec.ofNat 16 (8 * code.toNat)))

/-- RZ (R210): `RetIf(Z = 1)`. -/
def execRz (s : State) : Result :=
  .next (s.returnIf .z)

end Sys2Proof.Machine
end

