-- ==== Sys2Proof/Machine/DataTransfer.lean ====
section
/-! DEFINITION. The meanings of the data transfer instructions (spec/40_data_transfer.md). A meaning finds pc already at the next
instruction (R25) and leaves it there unless it writes pc. -/

namespace Sys2Proof.Machine

/-- LDA (R100): `A <- MemRead(addr, 1)`. -/
def execLda (addr : Word) (s : State) : Result :=
  .next (s.setA (s.read8 addr))

/-- LDAX (R101): `A <- MemRead(rp, 1)`. -/
def execLdax (rp : IndexPair) (s : State) : Result :=
  .next (s.setA (s.read8 (s.readIndex rp)))

/-- LHLD (R102): L from `addr`, then H from `addr + 1` modulo 2^16, two byte accesses (R54). -/
def execLhld (addr : Word) (s : State) : Result :=
  .next ((s.dmaTurn .data2).setHL (s.read16 addr))

/-- LXI (R103): the pair, or SP, gets the two data bytes. -/
def execLxi (rp : RegPair) (data : Word) (s : State) : Result :=
  .next (s.writePair rp data)

/-- MOV (R104): `r8[ddd] <- r8[sss]`, the source read before the write. MOV M,M is not permitted and no byte decodes to
it (R85; entry 33). -/
def execMov (dst src : Operand8) (s : State) : Result :=
  if dst = .m ∧ src = .m then .refused .movMemoryToMemory
  else .next (s.writeOperand dst (s.readOperand src))

/-- MVI (R105): `r8[ddd] <- byte2`. -/
def execMvi (dst : Operand8) (data : Byte) (s : State) : Result :=
  .next (s.writeOperand dst data)

/-- SHLD (R106): L to `addr`, then H to `addr + 1` modulo 2^16. -/
def execShld (addr : Word) (s : State) : Result :=
  .next (s.write16 addr s.regs.hl)

/-- STA (R107): `MemWrite(addr, 1, A)`. -/
def execSta (addr : Word) (s : State) : Result :=
  .next (s.write8 addr s.regs.a)

/-- STAX (R108): `MemWrite(rp, 1, A)`. -/
def execStax (rp : IndexPair) (s : State) : Result :=
  .next (s.write8 (s.readIndex rp) s.regs.a)

/-- XCHG (R109): HL and DE change places. -/
def execXchg (s : State) : Result :=
  .next ((s.setHL s.regs.de).setDE s.regs.hl)

end Sys2Proof.Machine
end

