-- ==== Sys2Proof/Machine/Logical.lean ====
section
/-! DEFINITION. The meanings of the logical, compare, rotate and carry instructions (spec/42_logical.md). A meaning finds pc already at the next
instruction (R25) and leaves it there unless it writes pc. -/

namespace Sys2Proof.Machine

/-- ANA (R151): `Logic(AND, r8[sss])`. -/
def execAna (src : Operand8) (s : State) : Result :=
  .next (s.andWithA (s.readOperand src))

/-- ANI (R152): `Logic(AND, byte2)`. -/
def execAni (data : Byte) (s : State) : Result :=
  .next (s.andWithA data)

/-- CMA (R153): every bit of A inverted; no flag. -/
def execCma (s : State) : Result :=
  .next (s.setA (~~~s.regs.a))

/-- CMC (R154): `CY <- 1 - CY`. -/
def execCmc (s : State) : Result :=
  .next { s with flags.cy := !s.flags.cy }

/-- CMP (R155): the flags of `A - r8[sss]`; A unchanged. -/
def execCmp (src : Operand8) (s : State) : Result :=
  .next (s.compareWithA (s.readOperand src))

/-- CPI (R156): the flags of `A - byte2`; A unchanged. -/
def execCpi (data : Byte) (s : State) : Result :=
  .next (s.compareWithA data)

/-- ORA (R157): `Logic(OR, r8[sss])`. -/
def execOra (src : Operand8) (s : State) : Result :=
  .next (s.orWithA (s.readOperand src))

/-- ORI (R158): `Logic(OR, byte2)`. -/
def execOri (data : Byte) (s : State) : Result :=
  .next (s.orWithA data)

/-- RAL (R159): CY:A one place left, A bit 7 into CY. -/
def execRal (s : State) : Result :=
  .next (s.rotated (s.regs.a.extractLsb' 0 7 ++ BitVec.ofBool s.flags.cy) (s.regs.a.getLsbD 7))

/-- RAR (R160): A:CY one place right, A bit 0 into CY. -/
def execRar (s : State) : Result :=
  .next (s.rotated (BitVec.ofBool s.flags.cy ++ s.regs.a.extractLsb' 1 7) (s.regs.a.getLsbD 0))

/-- RLC (R161): A one place left, bit 7 into bit 0 and CY. -/
def execRlc (s : State) : Result :=
  .next (s.rotated (s.regs.a.extractLsb' 0 7 ++ s.regs.a.extractLsb' 7 1) (s.regs.a.getLsbD 7))

/-- RRC (R162): A one place right, bit 0 into bit 7 and CY. -/
def execRrc (s : State) : Result :=
  .next (s.rotated (s.regs.a.extractLsb' 0 1 ++ s.regs.a.extractLsb' 1 7) (s.regs.a.getLsbD 0))

/-- STC (R163): `CY <- 1`. -/
def execStc (s : State) : Result :=
  .next { s with flags.cy := true }

/-- XRA (R164): `Logic(XOR, r8[sss])`. -/
def execXra (src : Operand8) (s : State) : Result :=
  .next (s.xorWithA (s.readOperand src))

/-- XRI (R165): `Logic(XOR, byte2)`. -/
def execXri (data : Byte) (s : State) : Result :=
  .next (s.xorWithA data)

end Sys2Proof.Machine
end

