-- ==== Sys2Proof/Machine/StackIoControl.lean ====
section
/-! DEFINITION. The meanings of the stack, input/output and machine control instructions (spec/44_stack_io_control.md). A meaning finds pc already at the next
instruction (R25) and leaves it there unless it writes pc. -/

namespace Sys2Proof.Machine

/-- DI (R220): `INTE <- 0; EiPending <- 0`. The completion rule (R256) then sets IntInhibit. -/
def execDi (s : State) : Result :=
  .next { s with ctl.inte := false, ctl.eiPending := false }

/-- EI (R221): `EiPending <- 1`; INTE follows when the next instruction completes (R256). -/
def execEi (s : State) : Result :=
  .next { s with ctl.eiPending := true }

/-- HLT (R222): `Halted <- 1`, pc at the next instruction. -/
def execHlt (s : State) : Result :=
  .next { s with ctl.halted := true }

/-- IN (R223): `A <- IoRead(port)`, one port read; no flag. -/
def execIn (port : Byte) (s : State) : Result :=
  .next ((s.setA (s.portByte port)).record (.portRead port (s.portByte port)))

/-- NOP (R224): nothing but pc. -/
def execNop (s : State) : Result :=
  .next s

/-- OUT (R225): `IoWrite(port, A)`, one event. -/
def execOut (port : Byte) (s : State) : Result :=
  .next (s.record (.portWrite port s.regs.a))

/-- POP (R226): `rp <- Pop16()`; POP PSW loads A and the five flags. -/
def execPop (rp : StackPair) (s : State) : Result :=
  .next (s.drop16.writeStackPair rp s.top16)

/-- PUSH (R227): `Push16(rp)`; PUSH PSW pushes A and the flag byte. -/
def execPush (rp : StackPair) (s : State) : Result :=
  .next (s.push16 (s.readStackPair rp))

/-- RIM (R228), 8085 only: A gets the byte of R39. On the 8080 the byte 0x20 is undefined (R84). -/
def execRim (s : State) : Result :=
  match s.variant with
  | .i8080 => .refused (.undefinedOpcode 0x20)
  | .i8085 => .next (s.setA s.rimByte)

/-- SIM (R229), 8085 only: the mask, the RST7.5 flip-flop and SOD as A says. On the 8080 the byte 0x30 is undefined
(R84). -/
def execSim (s : State) : Result :=
  match s.variant with
  | .i8080 => .refused (.undefinedOpcode 0x30)
  | .i8085 => .next { s with ext := s.ext.setBy s.regs.a }

/-- SPHL (R230): `SP <- HL`. -/
def execSphl (s : State) : Result :=
  .next { s with sp := s.regs.hl }

/-- XTHL (R231): HL and the two bytes at SP and SP + 1 change places: both reads, then H to SP + 1, then L to SP (D19).
Four byte accesses, with the DMA agent's turn between any two (R61). -/
def execXthl (s : State) : Result :=
  let s1 := ((s.dmaTurn .data2).dmaTurn .data3).write8 (s.sp + 1) s.regs.h
  let s2 := (s1.dmaTurn .data4).write8 s.sp s.regs.l
  .next (s2.setHL s.top16)

end Sys2Proof.Machine
end

