-- ==== Sys2Proof/Machine/Dispatch.lean ====
section
/-! DEFINITION. One arm for each instruction: its meaning. -/

namespace Sys2Proof.Machine

def exec (i : Instr) (s : State) : Host.Outcome State Fault Refusal :=
  match i with
  | .lda addr => Sys2Proof.Machine.execLda addr s
  | .ldax rp => Sys2Proof.Machine.execLdax rp s
  | .lhld addr => Sys2Proof.Machine.execLhld addr s
  | .lxi rp data => Sys2Proof.Machine.execLxi rp data s
  | .mov dst src => Sys2Proof.Machine.execMov dst src s
  | .mvi dst data => Sys2Proof.Machine.execMvi dst data s
  | .shld addr => Sys2Proof.Machine.execShld addr s
  | .sta addr => Sys2Proof.Machine.execSta addr s
  | .stax rp => Sys2Proof.Machine.execStax rp s
  | .xchg => Sys2Proof.Machine.execXchg s
  | .aci data => Sys2Proof.Machine.execAci data s
  | .adc src => Sys2Proof.Machine.execAdc src s
  | .add src => Sys2Proof.Machine.execAdd src s
  | .adi data => Sys2Proof.Machine.execAdi data s
  | .daa => Sys2Proof.Machine.execDaa s
  | .dad rp => Sys2Proof.Machine.execDad rp s
  | .dcr dst => Sys2Proof.Machine.execDcr dst s
  | .dcx rp => Sys2Proof.Machine.execDcx rp s
  | .inr dst => Sys2Proof.Machine.execInr dst s
  | .inx rp => Sys2Proof.Machine.execInx rp s
  | .sbb src => Sys2Proof.Machine.execSbb src s
  | .sbi data => Sys2Proof.Machine.execSbi data s
  | .sub src => Sys2Proof.Machine.execSub src s
  | .sui data => Sys2Proof.Machine.execSui data s
  | .ana src => Sys2Proof.Machine.execAna src s
  | .ani data => Sys2Proof.Machine.execAni data s
  | .cma => Sys2Proof.Machine.execCma s
  | .cmc => Sys2Proof.Machine.execCmc s
  | .cmp src => Sys2Proof.Machine.execCmp src s
  | .cpi data => Sys2Proof.Machine.execCpi data s
  | .ora src => Sys2Proof.Machine.execOra src s
  | .ori data => Sys2Proof.Machine.execOri data s
  | .ral => Sys2Proof.Machine.execRal s
  | .rar => Sys2Proof.Machine.execRar s
  | .rlc => Sys2Proof.Machine.execRlc s
  | .rrc => Sys2Proof.Machine.execRrc s
  | .stc => Sys2Proof.Machine.execStc s
  | .xra src => Sys2Proof.Machine.execXra src s
  | .xri data => Sys2Proof.Machine.execXri data s
  | .call addr => Sys2Proof.Machine.execCall addr s
  | .cc addr => Sys2Proof.Machine.execCc addr s
  | .cm addr => Sys2Proof.Machine.execCm addr s
  | .cnc addr => Sys2Proof.Machine.execCnc addr s
  | .cnz addr => Sys2Proof.Machine.execCnz addr s
  | .cp addr => Sys2Proof.Machine.execCp addr s
  | .cpe addr => Sys2Proof.Machine.execCpe addr s
  | .cpo addr => Sys2Proof.Machine.execCpo addr s
  | .cz addr => Sys2Proof.Machine.execCz addr s
  | .jc addr => Sys2Proof.Machine.execJc addr s
  | .jm addr => Sys2Proof.Machine.execJm addr s
  | .jmp addr => Sys2Proof.Machine.execJmp addr s
  | .jnc addr => Sys2Proof.Machine.execJnc addr s
  | .jnz addr => Sys2Proof.Machine.execJnz addr s
  | .jp addr => Sys2Proof.Machine.execJp addr s
  | .jpe addr => Sys2Proof.Machine.execJpe addr s
  | .jpo addr => Sys2Proof.Machine.execJpo addr s
  | .jz addr => Sys2Proof.Machine.execJz addr s
  | .pchl => Sys2Proof.Machine.execPchl s
  | .rc => Sys2Proof.Machine.execRc s
  | .ret => Sys2Proof.Machine.execRet s
  | .rm => Sys2Proof.Machine.execRm s
  | .rnc => Sys2Proof.Machine.execRnc s
  | .rnz => Sys2Proof.Machine.execRnz s
  | .rp => Sys2Proof.Machine.execRp s
  | .rpe => Sys2Proof.Machine.execRpe s
  | .rpo => Sys2Proof.Machine.execRpo s
  | .rst code => Sys2Proof.Machine.execRst code s
  | .rz => Sys2Proof.Machine.execRz s
  | .di => Sys2Proof.Machine.execDi s
  | .ei => Sys2Proof.Machine.execEi s
  | .hlt => Sys2Proof.Machine.execHlt s
  | .inPort port => Sys2Proof.Machine.execIn port s
  | .nop => Sys2Proof.Machine.execNop s
  | .outPort port => Sys2Proof.Machine.execOut port s
  | .pop rp => Sys2Proof.Machine.execPop rp s
  | .push rp => Sys2Proof.Machine.execPush rp s
  | .rim => Sys2Proof.Machine.execRim s
  | .sim => Sys2Proof.Machine.execSim s
  | .sphl => Sys2Proof.Machine.execSphl s
  | .xthl => Sys2Proof.Machine.execXthl s

end Sys2Proof.Machine
end

