-- ==== Sys2Proof/Machine/Cycle.lean ====
section
/-! DEFINITION. One step of the processor (spec/00_scope.md R9): the boundary, RESET, the acceptance of an interrupt or
the next instruction, and the completion rule. -/

namespace Sys2Proof.Machine

/-- The same outcome with a function applied to its next state. -/
def mapNext (f : State → State) : Result → Result
  | .next t => .next (f t)
  | .fault r => .fault r
  | .refused r => .refused r

/-- The bytes of the instruction at pc (R9, R70): the first, and as many more as its length says, at addresses that
wrap modulo 2^16 (R25, D4). Each fetch is a byte access, with the DMA agent's turn between any two (R54). -/
def State.fetchBytes (s : State) : List Byte :=
  [s.fetch8 s.pc, (s.beforeByte 1).fetch8 (s.pc + 1), (s.beforeByte 2).fetch8 (s.pc + 2)].take
    (instrLength (s.fetch8 s.pc))

/-- R256 around a meaning: run the instruction, then apply the completion rule with EiPending as it was before. -/
def runInstr (i : Instr) (s : State) : Result := mapNext (fun t => t.complete s.ctl.eiPending i) (exec i s)

/-- R9 (2): fetch, decode, set `next`, run; a first byte with no row is `Undefined(byte1)`. -/
def State.fetchExecute (s : State) : Result :=
  match decode s.variant s.fetchBytes with
  | .ok (i, _) => runInstr i (s.afterFetch s.fetchBytes.length)
  | .error _ => .refused (.undefinedOpcode (s.fetch8 s.pc))

/-- The one-byte instruction a device supplies, if `b` is one (R257). -/
def decodeSupplied (v : Variant) (b : Byte) : Option Instr :=
  match decode v [b] with
  | .ok (i, _) => some i
  | .error _ => none

/-- Entry for INT (R257): recognise, then run the supplied instruction with pc not advanced (D17). -/
def State.enterSupplied (s : State) : Result :=
  match decodeSupplied s.variant s.now.intByte with
  | some i => runInstr i s.recognise
  | none => .refused (.badInterruptInstruction s.now.intByte)

/-- Entry for the accepted source (R257 to R259). -/
def State.enter (s : State) (src : IntSource) : Result :=
  match src with
  | .int => s.enterSupplied
  | _ => .next ((s.clearRequest src).enterRestart (restartAddress src))

/-- R9 (2) for a halted processor: nothing but `IntInhibit <- 0`. -/
def State.idle (s : State) : State := { s with ctl.intInhibit := false }

/-- R9 after the boundary: RESET before everything (R290; DESIGN CHOICE: taken at the boundary only, so that an
instruction in progress when RESET arrives completes first, entry 42), then an accepted request, then the halt, then
the next instruction. -/
def State.act (s : State) : Result :=
  if s.now.reset = true then .next s.applyReset
  else
    match s.accepted with
    | some src => s.enter src
    | none => if s.ctl.halted = true then .next s.idle else s.fetchExecute

/-- One step (R9). -/
def State.cycle (s : State) : Result := mapNext State.endStep s.boundary.act

/-- The inputs of a boundary with nothing asked of the processor; its data inputs stay. -/
def undemanding (x : Inputs) : Inputs :=
  { x with reset := false, dma := [], int := false, trap := false, rst75 := false, rst65 := false, rst55 := false
           accept := false }

/-- The first entry of a schedule made undemanding. -/
def undemandFirst : List Inputs → List Inputs
  | [] => []
  | x :: rest => undemanding x :: rest

/-- One byte put into memory from outside the machine, whatever the memory map says of the address, which then reads
as memory. -/
def State.place (s : State) (a : Word) (v : Byte) : State :=
  let s1 := { s with mem := Memory.write s.mem a.toNat v }
  if s1.kindAt a = .absent then
    { s1 with platform.memMap := { first := a.toNat, last := a.toNat, kind := .ram } :: s1.platform.memMap }
  else s1

/-- Three instruction bytes at pc, and nothing that would keep the next step from fetching them: no halt, and no
request, RESET or DMA in the coming step (entry 34). -/
def State.placeInstruction (s : State) (b1 b2 b3 : Byte) : State :=
  let s1 := ((s.place s.pc b1).place (s.pc + 1) b2).place (s.pc + 2) b3
  { s1 with ctl.halted := false, env := undemandFirst s1.env }

end Sys2Proof.Machine
end

