-- ==== Sys2Proof/Machine/Step.lean ====
section
/-! DEFINITION. The step of the machine, and where the next instruction is fetched from. -/

namespace Sys2Proof.Machine

/-- One step of the processor (spec/00_scope.md R9). -/
def step (s : State) : Host.Outcome State Fault Refusal := s.cycle

/-- The state with the instruction whose bits are `w` stored at pc, bit 0 the least significant bit of the first byte;
bits from `nbits` on are 0 (entry 34). -/
def State.withFetchWord (s : State) (nbits w : Nat) : State :=
  let x := w % 2 ^ nbits
  s.placeInstruction (BitVec.ofNat 8 x) (BitVec.ofNat 8 (x / 256)) (BitVec.ofNat 8 (x / 65536))

end Sys2Proof.Machine
end

