-- ==== Sys2Proof/Machine/Timing.lean ====
section
/-! DEFINITION. The cycle and state counts of spec/70_reset_and_hazards.md R296. They are informative (R297): no
meaning and no step reads them (entry 31). -/

namespace Sys2Proof.Machine

/-- Machine cycles and clock states; `none` where the spec prints no figure. -/
structure Timing where
  cycles : Option Nat
  states : Option Nat
deriving DecidableEq, Repr

/-- A figure printed the same for both processors. -/
def bothStates (cycles : Option Nat) (states : Nat) : Timing := { cycles := cycles, states := some states }

/-- A figure that differs between the 8080 and the 8085. -/
def perVariant (v : Variant) (cycles : Option Nat) (on8080 on8085 : Nat) : Timing :=
  { cycles := cycles, states := some (match v with | .i8080 => on8080 | .i8085 => on8085) }

/-- An operand form with one figure for a register and one for M. -/
def byOperand (o : Operand8) (reg mem : Timing) : Timing := if o = .m then mem else reg

/-- Conditional calls: "3 or 5 (8085: 2 or 5)" cycles, "11 or 17" or "9 or 18" states. -/
def callTiming (v : Variant) (taken : Bool) : Timing :=
  match v, taken with
  | .i8080, false => bothStates (some 3) 11
  | .i8085, false => bothStates (some 2) 9
  | .i8080, true => bothStates (some 5) 17
  | .i8085, true => bothStates (some 5) 18

/-- Conditional jumps: "3 (8085: 2 or 3)" cycles, 10 or "7 or 10" states. -/
def jumpTiming (v : Variant) (taken : Bool) : Timing :=
  match v, taken with
  | .i8085, false => bothStates (some 2) 7
  | _, _ => bothStates (some 3) 10

/-- Conditional returns: "1 or 3" cycles, "5 or 11" or "6 or 12" states. -/
def returnTiming (v : Variant) (taken : Bool) : Timing :=
  match taken with
  | false => perVariant v (some 1) 5 6
  | true => perVariant v (some 3) 11 12

/-- The row of R296 for an instruction; `taken` says whether its condition holds, and matters to conditional
instructions only. The figures of CALL are lost (G14 is not used); NOP's 4 on the 8080 is R224's. -/
def timing (v : Variant) (i : Instr) (taken : Bool) : Timing :=
  match i with
  | .aci _ | .adi _ | .ani _ | .cpi _ | .ori _ | .sbi _ | .sui _ | .xri _ => bothStates (some 2) 7
  | .adc o | .add o | .ora o | .sbb o => byOperand o (bothStates (some 1) 4) (bothStates (some 2) 7)
  | .ana o | .cmp o | .sub o | .xra o => byOperand o (bothStates none 4) (bothStates (some 2) 7)
  | .call _ => { cycles := none, states := none }
  | .cc _ | .cm _ | .cnc _ | .cnz _ | .cp _ | .cpe _ | .cpo _ | .cz _ => callTiming v taken
  | .cma | .cmc | .daa | .ral | .rar | .rlc | .rrc | .stc => bothStates none 4
  | .dad _ => bothStates (some 3) 10
  | .dcr o => byOperand o (perVariant v (some 1) 5 4) (bothStates (some 3) 10)
  | .inr o => byOperand o (perVariant v none 5 4) (bothStates (some 3) 10)
  | .dcx _ => perVariant v none 5 6
  | .inx _ => perVariant v (some 1) 5 6
  | .di | .rim => bothStates none 4
  | .ei | .sim => bothStates (some 1) 4
  | .hlt => perVariant v (some 1) 7 5
  | .inPort _ | .outPort _ => bothStates (some 3) 10
  | .jc _ | .jm _ | .jnc _ | .jnz _ | .jp _ | .jpe _ | .jpo _ | .jz _ => jumpTiming v taken
  | .jmp _ => bothStates (some 3) 10
  | .lda _ | .sta _ => bothStates (some 4) 13
  | .ldax _ | .stax _ => bothStates (some 2) 7
  | .lhld _ | .shld _ => bothStates (some 5) 16
  | .lxi _ _ => bothStates (some 3) 10
  | .mov dst src => byOperand dst (byOperand src (perVariant v (some 1) 5 4) (bothStates (some 2) 7)) (bothStates (some 2) 7)
  | .mvi o _ => byOperand o (bothStates (some 2) 7) (bothStates (some 3) 10)
  | .nop => { cycles := none, states := match v with | .i8080 => some 4 | .i8085 => none }
  | .pchl | .sphl => perVariant v (some 1) 5 6
  | .pop _ => bothStates (some 3) 10
  | .push _ => perVariant v (some 3) 11 12
  | .rc | .rm | .rnc | .rnz | .rp | .rpe | .rpo | .rz => returnTiming v taken
  | .ret => bothStates (some 3) 10
  | .rst _ => perVariant v (some 3) 11 12
  | .xchg => bothStates (some 1) 4
  | .xthl => perVariant v (some 5) 18 16

end Sys2Proof.Machine
end

