-- ==== Sys2Proof/Safety.lean ====
section
/-! DEFINITION. The terms in which statements about the machine are made: what a step runs, what stays as it was, the
invariant, the stopped verdict. No meaning uses anything of this file. -/

namespace Sys2Proof.Machine

/-! ### What stays as it was -/

/-- Every byte that a data read gives reads as before. -/
def SameMemory (s t : State) : Prop := ∀ x : Word, t.read8 x = s.read8 x

/-- Every byte at an address that is not among `stored` reads as before. -/
def SameMemoryBut (s t : State) (stored : List Word) : Prop := ∀ x : Word, x ∉ stored → t.read8 x = s.read8 x

/-- Whether the DMA agent writes at `x` in its turn at the gap `g`. -/
def DmaTouches (s : State) (g : BusGap) (x : Word) : Prop := ∃ w ∈ s.dmaAt g, w.addr = x

/-- Where address `x` is RAM it reads `v` afterwards. (Elsewhere the store is ignored: entry 8.) -/
def TakesByte (s t : State) (x : Word) (v : Byte) : Prop := s.kindAt x = .ram → t.read8 x = v

/-- The same for a byte stored before the DMA agent's turn at `g`: where that turn writes at `x` too, its byte stands. -/
def TakesByteBefore (s t : State) (g : BusGap) (x : Word) (v : Byte) : Prop :=
  s.kindAt x = .ram →
    (¬ DmaTouches s g x → t.read8 x = v) ∧ (DmaTouches s g x → t.read8 x = (s.dmaTurn g).read8 x)

/-- The control bits, the 8085's bits, the parameters, the port history, the inputs to come and the step's number. -/
def SameRest (s t : State) : Prop :=
  t.ctl = s.ctl ∧ t.ext = s.ext ∧ t.platform = s.platform ∧ t.io = s.io ∧ t.env = s.env ∧ t.tick = s.tick

/-- Nothing but A and the flags. -/
def OnlyAAndFlags (s t : State) : Prop :=
  t.regs = { s.regs with a := t.regs.a } ∧ t.sp = s.sp ∧ t.pc = s.pc ∧ SameMemory s t ∧ SameRest s t

/-- Nothing but the flags. -/
def OnlyFlags (s t : State) : Prop :=
  t.regs = s.regs ∧ t.sp = s.sp ∧ t.pc = s.pc ∧ SameMemory s t ∧ SameRest s t

/-- Every general register but `o`. -/
def OtherRegisters (s t : State) (o : Operand8) : Prop :=
  ∀ x : Operand8, x ≠ o → x ≠ .m → t.readOperand x = s.readOperand x

/-! ### Flags of a result -/

/-- How many bits of a byte are 1. -/
def oneBits (r : Byte) : Nat := (List.range 8).countP (fun k => r.getLsbD k)

/-- S, Z and P as spec/00_scope.md R8 gives them for the result `r`. -/
def ResultFlags (f : Flags) (r : Byte) : Prop :=
  (f.s = true ↔ 128 ≤ r.toNat) ∧ (f.z = true ↔ r = 0) ∧ (f.p = true ↔ oneBits r % 2 = 0)

/-- CY and AC of the sum of `a`, `v` and a carry-in. -/
def SumCarries (f : Flags) (a v : Byte) (c : Bool) : Prop :=
  (f.cy = true ↔ 256 ≤ a.toNat + v.toNat + c.toNat) ∧
  (f.ac = true ↔ 16 ≤ a.toNat % 16 + v.toNat % 16 + c.toNat)

/-- CY is the borrow of `a - v - b`; AC is 1 when the low digit needs no borrow. -/
def DifferenceBorrows (f : Flags) (a v : Byte) (b : Bool) : Prop :=
  (f.cy = true ↔ a.toNat < v.toNat + b.toNat) ∧
  (f.ac = true ↔ v.toNat % 16 + b.toNat ≤ a.toNat % 16)

/-- `i` puts `A + v + c` modulo 256 in A with all five flags, and does nothing else. -/
def AddsToA (s : State) (i : Instr) (v : Byte) (c : Bool) : Prop :=
  ∃ t, exec i s = .next t ∧ t.regs.a.toNat = (s.regs.a.toNat + v.toNat + c.toNat) % 256 ∧
    ResultFlags t.flags t.regs.a ∧ SumCarries t.flags s.regs.a v c ∧ OnlyAAndFlags s t

/-- `i` puts `A - v - b` modulo 256 in A with all five flags, and does nothing else. -/
def SubtractsFromA (s : State) (i : Instr) (v : Byte) (b : Bool) : Prop :=
  ∃ t, exec i s = .next t ∧
    (t.regs.a.toNat : Int) = ((s.regs.a.toNat : Int) - (v.toNat : Int) - (b.toNat : Int)) % 256 ∧
    ResultFlags t.flags t.regs.a ∧ DifferenceBorrows t.flags s.regs.a v b ∧ OnlyAAndFlags s t

/-- `i` sets the flags of `A - v` and does nothing else. -/
def ComparesWithA (s : State) (i : Instr) (v : Byte) : Prop :=
  ∃ t, exec i s = .next t ∧ (t.flags.z = true ↔ s.regs.a = v) ∧
    (∃ r : Byte, (r.toNat : Int) = ((s.regs.a.toNat : Int) - (v.toNat : Int)) % 256 ∧ ResultFlags t.flags r) ∧
    DifferenceBorrows t.flags s.regs.a v false ∧ OnlyFlags s t

/-- `i` puts in A the byte each of whose bits is `op` of the bits of A and `v`; CY is 0 and AC is `ac`. -/
def CombinesWithA (s : State) (i : Instr) (op : Bool → Bool → Bool) (v : Byte) (ac : Bool) : Prop :=
  ∃ t, exec i s = .next t ∧ (∀ k, k < 8 → t.regs.a.getLsbD k = op (s.regs.a.getLsbD k) (v.getLsbD k)) ∧
    ResultFlags t.flags t.regs.a ∧ t.flags.cy = false ∧ t.flags.ac = ac ∧ OnlyAAndFlags s t

/-- `i` moves A and CY as given and does nothing else. -/
def RotatesA (s : State) (i : Instr) (a : Nat) (cy : Nat) : Prop :=
  ∃ t, exec i s = .next t ∧ t.regs.a.toNat = a ∧ t.flags.cy.toNat = cy ∧
    t.flags = { s.flags with cy := t.flags.cy } ∧ OnlyAAndFlags s t

/-- The 8-bit result whose S, Z and P an instruction computes (R8), for an execution from `s` to `t`: what it leaves in
A, the operand after INR or DCR, the difference of a compare. None for every other instruction. -/
def resultOf (s t : State) : Instr → Option Byte
  | .add _ | .adi _ | .adc _ | .aci _ | .sub _ | .sui _ | .sbb _ | .sbi _ | .daa => some t.regs.a
  | .ana _ | .ani _ | .ora _ | .ori _ | .xra _ | .xri _ => some t.regs.a
  | .inr o => some (BitVec.ofNat 8 ((s.readOperand o).toNat + 1))
  | .dcr o => some (BitVec.ofNat 8 ((s.readOperand o).toNat + 255))
  | .cmp o => some (BitVec.ofNat 8 (s.regs.a.toNat + 256 - (s.readOperand o).toNat))
  | .cpi data => some (BitVec.ofNat 8 (s.regs.a.toNat + 256 - data.toNat))
  | _ => none

/-- `i` replaces the operand `o` by `r` with the flags of INR or DCR, and does nothing else: CY stays, AC is 1 exactly
when `ac` holds. On M the DMA agent's turn between the read and the write is kept but for that byte (R61). -/
def StepsOperand (s : State) (i : Instr) (o : Operand8) (r : Byte) (ac : Prop) : Prop :=
  ∃ t, exec i s = .next t ∧ ResultFlags t.flags r ∧ (t.flags.ac = true ↔ ac) ∧ t.flags.cy = s.flags.cy ∧
    (o ≠ .m → t.readOperand o = r ∧ OtherRegisters s t o ∧ SameMemory s t) ∧
    (o = .m → TakesByte s t s.regs.hl r ∧ SameMemoryBut (s.dmaTurn .data2) t [s.regs.hl] ∧ t.regs = s.regs) ∧
    t.sp = s.sp ∧ t.pc = s.pc ∧ SameRest s t

/-- `i` puts `w` in the pair `rp` and does nothing else. -/
def LoadsPair (s : State) (i : Instr) (rp : RegPair) (w : Nat) : Prop :=
  ∃ t, exec i s = .next t ∧ (t.readPair rp).toNat = w ∧ (∀ x, x ≠ rp → t.readPair x = s.readPair x) ∧
    t.regs.a = s.regs.a ∧ t.flags = s.flags ∧ t.pc = s.pc ∧ SameMemory s t ∧ SameRest s t

/-- Two decimal digits in a byte, each 0 to 9 (R126: "two four-bit binary coded decimal digits"). -/
def IsDecimal (v : Byte) : Prop := v.toNat / 16 ≤ 9 ∧ v.toNat % 16 ≤ 9

/-- The number those digits write. -/
def decimalValue (v : Byte) : Nat := 10 * (v.toNat / 16) + v.toNat % 16

/-! ### Moves and stores -/

/-- `i` puts `v` in the register `dst` (not M) and does nothing else. -/
def LoadsRegister (s : State) (i : Instr) (dst : Operand8) (v : Byte) : Prop :=
  ∃ t, exec i s = .next t ∧ t.readOperand dst = v ∧ OtherRegisters s t dst ∧ t.flags = s.flags ∧ t.sp = s.sp ∧
    t.pc = s.pc ∧ SameMemory s t ∧ SameRest s t

/-- `i` stores `v` at `x` and does nothing else. -/
def StoresByte (s : State) (i : Instr) (x : Word) (v : Byte) : Prop :=
  ∃ t, exec i s = .next t ∧ TakesByte s t x v ∧ SameMemoryBut s t [x] ∧ t.regs = s.regs ∧ t.flags = s.flags ∧
    t.sp = s.sp ∧ t.pc = s.pc ∧ SameRest s t

/-- The stack has taken the word `v`: its high byte at SP - 1, then, after the DMA agent's turn, its low byte at SP - 2,
where SP now is. -/
def Pushed (s t : State) (v : Word) : Prop :=
  t.sp = s.sp - 2 ∧ TakesByteBefore s t .data2 (s.sp - 1) (BitVec.ofNat 8 (v.toNat / 256)) ∧
    TakesByte s t (s.sp - 2) (BitVec.ofNat 8 (v.toNat % 256)) ∧
    SameMemoryBut (s.dmaTurn .data2) t [s.sp - 1, s.sp - 2]

/-- `i` pushes `w` and does nothing else. -/
def PushesWord (s : State) (i : Instr) (w : Nat) : Prop :=
  ∃ t, exec i s = .next t ∧ Pushed s t (BitVec.ofNat 16 w) ∧ t.regs = s.regs ∧ t.flags = s.flags ∧ t.pc = s.pc ∧
    SameRest s t

/-- The high byte on top of the stack as a pop reads it: at SP + 1, after the DMA agent's turn between its two reads. -/
def stackHigh (s : State) : Byte := (s.dmaTurn .data2).read8 (s.sp + 1)

/-- The word on top of the stack: low byte at SP, high byte at SP + 1. -/
def stackWord (s : State) : Word := BitVec.ofNat 16 (256 * (stackHigh s).toNat + (s.read8 s.sp).toNat)

/-- The two bytes below the stack pointer are RAM, so that a push keeps what it is given. -/
def StackRoom (s : State) : Prop := s.kindAt (s.sp - 1) = .ram ∧ s.kindAt (s.sp - 2) = .ram

/-! ### Control transfers -/

/-- A jump on a condition: pc becomes `addr`, or stays at the next instruction, and nothing else changes. -/
def JumpsWhen (s : State) (i : Instr) (cond : Bool) (addr : Word) : Prop :=
  exec i s = .next { s with pc := if cond = true then addr else s.pc }

/-- A call on a condition: taken, pc (the next instruction) is pushed and becomes `addr`; not taken, nothing changes. -/
def CallsWhen (s : State) (i : Instr) (cond : Bool) (addr : Word) : Prop :=
  (cond = true → ∃ t, exec i s = .next t ∧ Pushed s t s.pc ∧ t.pc = addr ∧ t.regs = s.regs ∧ t.flags = s.flags ∧
    SameRest s t) ∧
  (cond = false → exec i s = .next s)

/-- A return on a condition: taken, pc is popped, with the DMA agent's turn between the two bytes; not taken, nothing
changes. -/
def ReturnsWhen (s : State) (i : Instr) (cond : Bool) : Prop :=
  (cond = true → exec i s = .next { s.dmaTurn .data2 with sp := s.sp + 2, pc := stackWord s }) ∧
  (cond = false → exec i s = .next s)

/-! ### Instructions by what they may write -/

/-- The instructions of the table of spec/10_state.md R33. -/
def writesFlags : Instr → Bool
  | .add _ | .adi _ | .adc _ | .aci _ | .sub _ | .sui _ | .sbb _ | .sbi _ | .cmp _ | .cpi _ => true
  | .ana _ | .ani _ | .ora _ | .ori _ | .xra _ | .xri _ => true
  | .inr _ | .dcr _ | .daa | .dad _ | .rlc | .rrc | .ral | .rar | .stc | .cmc => true
  | .pop .psw => true
  | _ => false

/-- The instructions of that table that write CY alone. -/
def writesCarryOnly : Instr → Bool
  | .dad _ | .rlc | .rrc | .ral | .rar | .stc | .cmc => true
  | _ => false

/-- The instructions that may write memory. -/
def storesMemory : Instr → Bool
  | .shld _ | .sta _ | .stax _ | .push _ | .xthl | .rst _ => true
  | .mov .m _ | .mvi .m _ | .inr .m | .dcr .m => true
  | .call _ | .cc _ | .cm _ | .cnc _ | .cnz _ | .cp _ | .cpe _ | .cpo _ | .cz _ => true
  | _ => false

/-- The instructions that read two bytes of memory and write none: between the two the DMA agent has its turn. -/
def readsTwoBytes : Instr → Bool
  | .lhld _ | .pop _ => true
  | .ret | .rc | .rm | .rnc | .rnz | .rp | .rpe | .rpo | .rz => true
  | _ => false

/-- The instructions that may change SP (spec/10_state.md R23). -/
def movesSp : Instr → Bool
  | .lxi .sp _ | .inx .sp | .dcx .sp | .sphl | .push _ | .pop _ | .rst _ => true
  | .call _ | .cc _ | .cm _ | .cnc _ | .cnz _ | .cp _ | .cpe _ | .cpo _ | .cz _ => true
  | .ret | .rc | .rm | .rnc | .rnz | .rp | .rpe | .rpo | .rz => true
  | _ => false

/-- The instructions that may write pc: those of spec/43_branch.md. -/
def writesPc : Instr → Bool
  | .jmp _ | .jc _ | .jm _ | .jnc _ | .jnz _ | .jp _ | .jpe _ | .jpo _ | .jz _ => true
  | .call _ | .cc _ | .cm _ | .cnc _ | .cnz _ | .cp _ | .cpe _ | .cpo _ | .cz _ => true
  | .ret | .rc | .rm | .rnc | .rnz | .rp | .rpe | .rpo | .rz => true
  | .pchl | .rst _ => true
  | _ => false

/-! ### Runs and steps -/

/-- Some instructions executed one after another, with nothing between them. -/
def execAll : List Instr → State → Result
  | [], s => .next s
  | i :: rest, s =>
    match exec i s with
    | .next t => execAll rest t
    | .fault r => .fault r
    | .refused r => .refused r

/-- The request a step accepts, RESET apart: decided after the boundary's edge and DMA (R9, R260). -/
def State.taken (s : State) : Option IntSource := if s.now.reset = true then none else s.boundary.accepted

/-- The instruction a step runs, if it runs one: the supplied one on an accepted INT, else the fetched one where
nothing is accepted and the processor is not halted (R9). -/
def State.running (s : State) : Option Instr :=
  if s.now.reset = true then none
  else
    match s.taken with
    | some .int => decodeSupplied s.variant s.now.intByte
    | some _ => none
    | none =>
      if s.ctl.halted = true then none
      else
        match decode s.variant s.boundary.fetchBytes with
        | .ok (i, _) => some i
        | .error _ => none

/-- What spec/60_exceptions.md R254 asks of a source, whatever IntInhibit is. -/
def RequestStands (s : State) : IntSource → Prop
  | .int => s.now.int = true ∧ s.ctl.inte = true
  | .trap => s.variant = .i8085 ∧ s.now.trap = true
  | .rst75 => s.variant = .i8085 ∧ s.ext.r75 = true ∧ s.ext.m75 = false ∧ s.ctl.inte = true
  | .rst65 => s.variant = .i8085 ∧ s.now.rst65 = true ∧ s.ext.m65 = false ∧ s.ctl.inte = true
  | .rst55 => s.variant = .i8085 ∧ s.now.rst55 = true ∧ s.ext.m55 = false ∧ s.ctl.inte = true

/-- The state after an entry at `target` (R258, R259) from the state `s` of the boundary: what it shares for every
source. -/
def EntersAt (s t : State) (target : Word) : Prop :=
  t.ctl = { inte := false, eiPending := false, intInhibit := false, halted := false } ∧ Pushed s t s.pc ∧
    t.pc = target ∧ t.regs = s.regs ∧ t.flags = s.flags ∧ t.platform = s.platform ∧ t.io = s.io ∧ t.env = s.env ∧
    t.tick = s.tick

/-- Whether a TRAP is still to arrive: on the 8085, at the coming boundary or at a later one of the schedule (past its
end none does). -/
def State.trapArrives (s : State) : Bool := decide (s.variant = .i8085) && s.env.any (fun x => x.trap)

/-- The verdict `Stopped` (R251, D28): halted, with interrupts off and none to come on, and on the 8085 no TRAP to
arrive: without a RESET no interrupt can ever be accepted. It is no outcome of a step here (entry 29). -/
def State.stopped (s : State) : Bool := s.ctl.halted && !s.ctl.inte && !s.ctl.eiPending && !s.trapArrives

/-- The invariant of the machine: memory is in canonical form, a pending enable is never exposed to an acceptance
(R35, R256), and the halted processor has none pending (R222, R256). -/
def State.Inv (s : State) : Prop :=
  Memory.wf s.mem = true ∧ (s.ctl.eiPending = true → s.ctl.intInhibit = true) ∧
    (s.ctl.halted = true → s.ctl.intInhibit = false)

end Sys2Proof.Machine
end

