-- ==== Sys2Proof/Certificates/Slice0/Obligations.lean ====
section
/-! DEFINITION. The statements for the provers, in the order of OBLIGATIONS.json. A statement about memory contents
takes the canonical form of memory as a premise: the invariant of `Obligations.EveryStepKeepsTheInvariant`. -/

section

open Sys2Proof Sys2Proof.Machine

/-! ### Encoding -/

/-- Decode after encode (R71, R82): no bit of an encoding is dropped, and the bytes after it are left. -/
def Obligations.DecodingAnEncodingGivesTheInstruction : Prop :=
  ∀ (v : Variant) (i : Instr) (rest : List Byte), i.wellFormed v = true → decode v (encode i ++ rest) = .ok (i, rest)

/-- Encode after decode (R82): no two byte strings are read as one instruction, and what is read is well-formed. -/
def Obligations.DecodedBytesAreTheInstructionsEncoding : Prop :=
  ∀ (v : Variant) (bytes : List Byte) (i : Instr) (rest : List Byte), decode v bytes = .ok (i, rest) →
    i.wellFormed v = true ∧ encode i ++ rest = bytes

/-- R83, R84: these first bytes are refused, whatever follows, and every other one begins an instruction. The refusal
is D2 and D3 of spec/92 (entry 26). -/
def Obligations.UndefinedFirstBytesAreRefusedAndNoOthers : Prop :=
  ∀ (v : Variant) (b : Byte) (rest : List Byte),
    ((b ∈ [0x08, 0x10, 0x18, 0x28, 0x38, 0xCB, 0xD9, 0xDD, 0xED, 0xFD] ∨ (v = .i8080 ∧ (b = 0x20 ∨ b = 0x30))) →
      decode v (b :: rest) = .error (.undefinedOpcode b)) ∧
    (¬ (b ∈ [0x08, 0x10, 0x18, 0x28, 0x38, 0xCB, 0xD9, 0xDD, 0xED, 0xFD] ∨ (v = .i8080 ∧ (b = 0x20 ∨ b = 0x30))) →
      2 ≤ rest.length → ∃ i r, decode v (b :: rest) = .ok (i, r))

/-- Assembled bytes that the source prints or that spec/95 derives, read back. -/
def Obligations.WrittenOutWordsDecodeToTheirInstructions : Prop :=
  decode .i8080 [0x32, 0xB3, 0x05] = .ok (.sta 0x05B3, []) ∧
  decode .i8080 [0x01, 0x5A, 0x41] = .ok (.lxi .b 0x415A, []) ∧
  decode .i8080 [0x7E, 0x5F, 0x49] = .ok (.mov .a .m, [0x5F, 0x49]) ∧
  decode .i8080 [0x36, 0x41] = .ok (.mvi .m 0x41, []) ∧
  decode .i8080 [0xCE, 0x42] = .ok (.aci 0x42, []) ∧
  decode .i8080 [0xE6, 0xBF] = .ok (.ani 0xBF, []) ∧
  decode .i8080 [0xDC, 0x00, 0x02] = .ok (.cc 0x0200, []) ∧
  decode .i8080 [0xFF] = .ok (.rst 7, []) ∧
  decode .i8080 [0x76] = .ok (.hlt, []) ∧
  decode .i8085 [0x20] = .ok (.rim, [])

/-- R78: a two-byte operand has its high-order byte third and its low-order byte second, absolute and unscaled. -/
def Obligations.AddressOperandsAreByte3ThenByte2 : Prop :=
  ∀ (v : Variant) (b2 b3 : Byte) (rest : List Byte),
    let w : Word := BitVec.ofNat 16 (256 * b3.toNat + b2.toNat)
    (decode v (0xC3 :: b2 :: b3 :: rest) = .ok (.jmp w, rest) ∧
      decode v (0xC2 :: b2 :: b3 :: rest) = .ok (.jnz w, rest) ∧
      decode v (0xCA :: b2 :: b3 :: rest) = .ok (.jz w, rest) ∧
      decode v (0xD2 :: b2 :: b3 :: rest) = .ok (.jnc w, rest) ∧
      decode v (0xDA :: b2 :: b3 :: rest) = .ok (.jc w, rest) ∧
      decode v (0xE2 :: b2 :: b3 :: rest) = .ok (.jpo w, rest) ∧
      decode v (0xEA :: b2 :: b3 :: rest) = .ok (.jpe w, rest) ∧
      decode v (0xF2 :: b2 :: b3 :: rest) = .ok (.jp w, rest) ∧
      decode v (0xFA :: b2 :: b3 :: rest) = .ok (.jm w, rest)) ∧
    (decode v (0xCD :: b2 :: b3 :: rest) = .ok (.call w, rest) ∧
      decode v (0xC4 :: b2 :: b3 :: rest) = .ok (.cnz w, rest) ∧
      decode v (0xCC :: b2 :: b3 :: rest) = .ok (.cz w, rest) ∧
      decode v (0xD4 :: b2 :: b3 :: rest) = .ok (.cnc w, rest) ∧
      decode v (0xDC :: b2 :: b3 :: rest) = .ok (.cc w, rest) ∧
      decode v (0xE4 :: b2 :: b3 :: rest) = .ok (.cpo w, rest) ∧
      decode v (0xEC :: b2 :: b3 :: rest) = .ok (.cpe w, rest) ∧
      decode v (0xF4 :: b2 :: b3 :: rest) = .ok (.cp w, rest) ∧
      decode v (0xFC :: b2 :: b3 :: rest) = .ok (.cm w, rest)) ∧
    (decode v (0x3A :: b2 :: b3 :: rest) = .ok (.lda w, rest) ∧
      decode v (0x32 :: b2 :: b3 :: rest) = .ok (.sta w, rest) ∧
      decode v (0x2A :: b2 :: b3 :: rest) = .ok (.lhld w, rest) ∧
      decode v (0x22 :: b2 :: b3 :: rest) = .ok (.shld w, rest)) ∧
    (decode v (0x01 :: b2 :: b3 :: rest) = .ok (.lxi .b w, rest) ∧
      decode v (0x11 :: b2 :: b3 :: rest) = .ok (.lxi .d w, rest) ∧
      decode v (0x21 :: b2 :: b3 :: rest) = .ok (.lxi .h w, rest) ∧
      decode v (0x31 :: b2 :: b3 :: rest) = .ok (.lxi .sp w, rest))

/-! ### Memory, the stack, the registers -/

/-- R52, R54, R62: a two-byte store puts the low byte at the address and the high byte at the next one modulo 2^16,
seen by data reads and by instruction fetches, and touches no other byte. The two bytes are separate accesses: a DMA
agent's turn between them (R54, R68; entry 18) overwrites the low byte where it writes there, and stands elsewhere. A store where the
platform puts no RAM changes nothing: one of the two treatments of D6, the model's choice (entry 8). -/
def Obligations.StoresAreReadBackLowByteFirst : Prop :=
  ∀ (s : State) (a w : Word) (b : Byte),
    (Memory.wf s.mem = true → s.kindAt a = .ram → s.kindAt (a + 1) = .ram →
      TakesByteBefore s (s.write16 a w) .data2 a (BitVec.ofNat 8 (w.toNat % 256)) ∧
      (s.write16 a w).read8 (a + 1) = BitVec.ofNat 8 (w.toNat / 256) ∧
      (s.write16 a w).fetch8 a = (s.write16 a w).read8 a ∧
      (s.write16 a w).fetch8 (a + 1) = (s.write16 a w).read8 (a + 1) ∧
      (¬ DmaTouches s .data2 a → ¬ DmaTouches s .data2 (a + 1) → (s.write16 a w).read16 a = w) ∧
      SameMemoryBut (s.dmaTurn .data2) (s.write16 a w) [a, a + 1]) ∧
    (s.kindAt a ≠ .ram → s.write8 a b = s)

/-- R65, R66: a push stores the high byte at SP - 1 and the low byte at SP - 2, where SP ends; a pop gives the low byte
at SP and the high byte at SP + 1, moves SP by two and changes no memory. That between the two bytes of either the DMA
agent has its turn is R54 and R68 as entry 18 reads them; with no DMA write there `s.dmaTurn .data2` is `s`. -/
def Obligations.PushAndPopMoveTwoBytes : Prop :=
  ∀ (s : State) (w : Word),
    (Memory.wf s.mem = true → Pushed s (s.push16 w) w) ∧
    (s.push16 w).regs = s.regs ∧ (s.push16 w).flags = s.flags ∧ (s.push16 w).pc = s.pc ∧ SameRest s (s.push16 w) ∧
    s.top16 = stackWord s ∧ s.drop16 = { s.dmaTurn .data2 with sp := s.sp + 2 } ∧
    (s.dmaAt .data2 = [] → s.dmaTurn .data2 = s)

/-- R21: in each pair the first-named register is the high-order byte; a pair is the two registers. -/
def Obligations.PairsAreTheirTwoRegisters : Prop :=
  ∀ (s : State) (w : Word),
    (s.readPair .b).toNat = 256 * s.regs.b.toNat + s.regs.c.toNat ∧
    (s.readPair .d).toNat = 256 * s.regs.d.toNat + s.regs.e.toNat ∧
    (s.readPair .h).toNat = 256 * s.regs.h.toNat + s.regs.l.toNat ∧
    s.writePair .b w =
      { s with regs := { s.regs with b := BitVec.ofNat 8 (w.toNat / 256), c := BitVec.ofNat 8 (w.toNat % 256) } } ∧
    s.writePair .d w =
      { s with regs := { s.regs with d := BitVec.ofNat 8 (w.toNat / 256), e := BitVec.ofNat 8 (w.toNat % 256) } } ∧
    s.writePair .h w =
      { s with regs := { s.regs with h := BitVec.ofNat 8 (w.toNat / 256), l := BitVec.ofNat 8 (w.toNat % 256) } }

/-! ### Arithmetic -/

/-- ADD, ADI, ADC, ACI (R120, R122 to R125), M included, with the frame. That the carry-in takes part in AC is the
spec's G22 (entry 21). -/
def Obligations.AdditionsGiveTheSumAndItsFiveFlags : Prop :=
  ∀ (s : State) (src : Operand8) (data : Byte),
    AddsToA s (.add src) (s.readOperand src) false ∧ AddsToA s (.adc src) (s.readOperand src) s.flags.cy ∧
    AddsToA s (.adi data) data false ∧ AddsToA s (.aci data) data s.flags.cy

/-- SUB, SUI, SBB, SBI (R121, R132 to R135), M included, with the frame. AC is the spec's reading D26 (entry 21). -/
def Obligations.SubtractionsGiveTheDifferenceAndItsFiveFlags : Prop :=
  ∀ (s : State) (src : Operand8) (data : Byte),
    SubtractsFromA s (.sub src) (s.readOperand src) false ∧ SubtractsFromA s (.sbb src) (s.readOperand src) s.flags.cy ∧
    SubtractsFromA s (.sui data) data false ∧ SubtractsFromA s (.sbi data) data s.flags.cy

/-- CMP, CPI (R155, R156): the flags of the difference; A and everything else unchanged. AC is D26 (entry 21). -/
def Obligations.ComparesWriteTheFlagsOnly : Prop :=
  ∀ (s : State) (src : Operand8) (data : Byte),
    ComparesWithA s (.cmp src) (s.readOperand src) ∧ ComparesWithA s (.cpi data) data

/-- R150: the six bitwise instructions, bit by bit; CY 0; AC 0 for OR and XOR and `AndAux` for AND. -/
def Obligations.LogicalInstructionsCombineBitByBit : Prop :=
  ∀ (s : State) (src : Operand8) (data : Byte),
    CombinesWithA s (.ana src) (fun x y => x && y) (s.readOperand src)
      (Config.andAux s.variant s.regs.a (s.readOperand src)) ∧
    CombinesWithA s (.ani data) (fun x y => x && y) data (Config.andAux s.variant s.regs.a data) ∧
    CombinesWithA s (.ora src) (fun x y => x || y) (s.readOperand src) false ∧
    CombinesWithA s (.ori data) (fun x y => x || y) data false ∧
    CombinesWithA s (.xra src) (fun x y => x ^^ y) (s.readOperand src) false ∧
    CombinesWithA s (.xri data) (fun x y => x ^^ y) data false

/-- R8, R27, R28, R29: every instruction that writes S, Z and P from a result completes and writes them from its own
8-bit result. -/
def Obligations.SignZeroAndParityFollowTheResult : Prop :=
  ∀ (s : State) (i : Instr), (resultOf s s i).isSome = true →
    ∃ t r, exec i s = .next t ∧ resultOf s t i = some r ∧ ResultFlags t.flags r

/-- INR and DCR (R128, R130) on every register and on M, where the DMA agent may write between the read and the write
(R61). AC of DCR is D26 (entry 21). -/
def Obligations.IncrementAndDecrementKeepCarry : Prop :=
  ∀ (s : State) (o : Operand8), Memory.wf s.mem = true →
    StepsOperand s (.inr o) o (BitVec.ofNat 8 ((s.readOperand o).toNat + 1)) ((s.readOperand o).toNat % 16 = 15) ∧
    StepsOperand s (.dcr o) o (BitVec.ofNat 8 ((s.readOperand o).toNat + 255)) ((s.readOperand o).toNat % 16 ≠ 0)

/-- INX and DCX (R129, R131): sixteen bits modulo 2^16, and no flag. -/
def Obligations.PairIncrementsWrapAndWriteNoFlag : Prop :=
  ∀ (s : State) (rp : RegPair),
    LoadsPair s (.inx rp) rp (((s.readPair rp).toNat + 1) % 65536) ∧
    LoadsPair s (.dcx rp) rp (((s.readPair rp).toNat + 65535) % 65536)

/-- DAD (R127): the sum in HL, its carry in CY, every other flag and register kept. That CY is cleared when there is no
carry is the spec's inference in R127. -/
def Obligations.DoubleAddWritesCarryOnly : Prop :=
  ∀ (s : State) (rp : RegPair), ∃ t, exec (.dad rp) s = .next t ∧
    t.regs.hl.toNat = (s.regs.hl.toNat + (s.readPair rp).toNat) % 65536 ∧
    (t.flags.cy = true ↔ 65536 ≤ s.regs.hl.toNat + (s.readPair rp).toNat) ∧
    t.flags = { s.flags with cy := t.flags.cy } ∧
    t.regs = { s.regs with h := t.regs.h, l := t.regs.l } ∧ t.sp = s.sp ∧ t.pc = s.pc ∧ SameMemory s t ∧ SameRest s t

/-- DAA (R126): six is added when the low digit exceeds nine or AC is 1, then sixty hexadecimal when the digit above it
does or CY is 1. The algorithm is the spec's general knowledge G5 (entry 20). -/
def Obligations.DecimalAdjustFollowsTheTwoSteps : Prop :=
  ∀ s : State, ∃ t, exec .daa s = .next t ∧
    (∃ t1 t2 : Nat,
      (9 < s.regs.a.toNat % 16 ∨ s.flags.ac = true → t1 = s.regs.a.toNat + 6) ∧
      (¬ (9 < s.regs.a.toNat % 16 ∨ s.flags.ac = true) → t1 = s.regs.a.toNat) ∧
      (9 < t1 / 16 ∨ s.flags.cy = true → t2 = t1 + 0x60) ∧
      (¬ (9 < t1 / 16 ∨ s.flags.cy = true) → t2 = t1) ∧
      t.regs.a.toNat = t2 % 256 ∧ (t.flags.cy = true ↔ 256 ≤ t2 ∨ s.flags.cy = true)) ∧
    (t.flags.ac = true ↔ 9 < s.regs.a.toNat % 16) ∧ ResultFlags t.flags t.regs.a ∧ OnlyAAndFlags s t

/-- ADC, then DAA, on decimal operands: A and CY are the decimal sum of A, the operand and CY (R126 says what DAA is
for; the algorithm is G5, entry 20). -/
def Obligations.DecimalAdjustAfterAdditionGivesTheDecimalSum : Prop :=
  ∀ (s : State) (src : Operand8), IsDecimal s.regs.a → IsDecimal (s.readOperand src) →
    ∃ t, execAll [.adc src, .daa] s = .next t ∧ IsDecimal t.regs.a ∧
      decimalValue t.regs.a + 100 * t.flags.cy.toNat =
        decimalValue s.regs.a + decimalValue (s.readOperand src) + s.flags.cy.toNat

/-! ### Rotates, carry, complement -/

/-- RLC, RRC, RAL, RAR (R159 to R162): A moves one place; CY alone of the flags is written. -/
def Obligations.RotatesMoveOnePlaceAndWriteCarryOnly : Prop :=
  ∀ s : State,
    RotatesA s .rlc (2 * s.regs.a.toNat % 256 + s.regs.a.toNat / 128) (s.regs.a.toNat / 128) ∧
    RotatesA s .rrc (s.regs.a.toNat / 2 + 128 * (s.regs.a.toNat % 2)) (s.regs.a.toNat % 2) ∧
    RotatesA s .ral (2 * s.regs.a.toNat % 256 + s.flags.cy.toNat) (s.regs.a.toNat / 128) ∧
    RotatesA s .rar (s.regs.a.toNat / 2 + 128 * s.flags.cy.toNat) (s.regs.a.toNat % 2)

/-- R159 to R162: nine RAL or RAR in a row restore A and CY; eight RLC or RRC restore A, with the last bit moved in CY. -/
def Obligations.FullRotationsRestoreTheAccumulator : Prop :=
  ∀ s : State,
    execAll (List.replicate 9 .ral) s = .next s ∧ execAll (List.replicate 9 .rar) s = .next s ∧
    execAll (List.replicate 8 .rlc) s = .next { s with flags := { s.flags with cy := s.regs.a.getLsbD 0 } } ∧
    execAll (List.replicate 8 .rrc) s = .next { s with flags := { s.flags with cy := s.regs.a.getLsbD 7 } }

/-- CMA (R153), CMC (R154), STC (R163). -/
def Obligations.ComplementAndCarryInstructions : Prop :=
  ∀ s : State,
    exec .cma s = .next { s with regs := { s.regs with a := BitVec.ofNat 8 (255 - s.regs.a.toNat) } } ∧
    exec .cmc s = .next { s with flags := { s.flags with cy := decide (s.flags.cy = false) } } ∧
    exec .stc s = .next { s with flags := { s.flags with cy := true } }

/-! ### Data transfer -/

/-- MOV and MVI to a register (R104, R105); the source may be M. -/
def Obligations.MovesLoadTheDestinationRegister : Prop :=
  ∀ (s : State) (dst src : Operand8) (data : Byte), dst ≠ .m →
    LoadsRegister s (.mov dst src) dst (s.readOperand src) ∧ LoadsRegister s (.mvi dst data) dst data

/-- MOV M,r and MVI M store at HL (R104, R105), STAX at BC or DE (R108). -/
def Obligations.IndirectStoresWriteOneByte : Prop :=
  ∀ (s : State) (src : Operand8) (data : Byte), Memory.wf s.mem = true →
    (src ≠ .m → StoresByte s (.mov .m src) s.regs.hl (s.readOperand src)) ∧ StoresByte s (.mvi .m data) s.regs.hl data ∧
    StoresByte s (.stax .b) (s.readPair .b) s.regs.a ∧ StoresByte s (.stax .d) (s.readPair .d) s.regs.a

/-- LDA (R100), LDAX (R101), LHLD (R102): what is read, and nothing else changed. The two reads of LHLD are separate
accesses: the DMA agent has its turn between them (R54, R68; entry 18). -/
def Obligations.LoadsReadTheAddressedBytes : Prop :=
  ∀ (s : State) (addr : Word),
    exec (.lda addr) s = .next { s with regs := { s.regs with a := s.read8 addr } } ∧
    exec (.ldax .b) s = .next { s with regs := { s.regs with a := s.read8 (s.readPair .b) } } ∧
    exec (.ldax .d) s = .next { s with regs := { s.regs with a := s.read8 (s.readPair .d) } } ∧
    exec (.lhld addr) s = .next { s.dmaTurn .data2 with
      regs := { s.regs with l := s.read8 addr, h := (s.dmaTurn .data2).read8 (addr + 1) } }

/-- SHLD (R106) and STA (R107): encoding, stores, frame and printed timing. That the DMA agent has its turn between
the two writes of SHLD is R54 and R68 as entry 18 reads them. -/
def Obligations.DirectStoresWriteTheAddressedBytes : Prop :=
  ∀ (s : State) (addr : Word) (v : Variant) (taken : Bool), Memory.wf s.mem = true →
    (∃ t, exec (.shld addr) s = .next t ∧ TakesByteBefore s t .data2 addr s.regs.l ∧
      TakesByte s t (addr + 1) s.regs.h ∧ SameMemoryBut (s.dmaTurn .data2) t [addr, addr + 1] ∧ t.regs = s.regs ∧
      t.flags = s.flags ∧ t.sp = s.sp ∧ t.pc = s.pc ∧ SameRest s t) ∧
    StoresByte s (.sta addr) addr s.regs.a ∧
    (∀ t, exec (.sta addr) s = .next t → s.kindAt addr = .ram → t.fetch8 addr = s.regs.a) ∧
    encode (.shld addr) = [0x22, BitVec.ofNat 8 (addr.toNat % 256), BitVec.ofNat 8 (addr.toNat / 256)] ∧
    encode (.sta addr) = [0x32, BitVec.ofNat 8 (addr.toNat % 256), BitVec.ofNat 8 (addr.toNat / 256)] ∧
    timing v (.shld addr) taken = { cycles := some 5, states := some 16 } ∧
    timing v (.sta addr) taken = { cycles := some 4, states := some 13 }

/-- LXI (R103), XCHG (R109), SPHL (R230), PCHL (R200). -/
def Obligations.SixteenBitMoves : Prop :=
  ∀ (s : State) (rp : RegPair) (data : Word),
    LoadsPair s (.lxi rp data) rp data.toNat ∧
    exec .xchg s =
      .next { s with regs := { s.regs with d := s.regs.h, e := s.regs.l, h := s.regs.d, l := s.regs.e } } ∧
    exec .sphl s = .next { s with sp := s.readPair .h } ∧
    exec .pchl s = .next { s with pc := s.readPair .h }

/-! ### Branches -/

/-- JMP and the eight conditional jumps (R180, R181, R191 to R199). -/
def Obligations.JumpsGoToTheAddressWhenTheConditionHolds : Prop :=
  ∀ (s : State) (addr : Word),
    JumpsWhen s (.jmp addr) true addr ∧
    JumpsWhen s (.jnz addr) (!s.flags.z) addr ∧ JumpsWhen s (.jz addr) s.flags.z addr ∧
    JumpsWhen s (.jnc addr) (!s.flags.cy) addr ∧ JumpsWhen s (.jc addr) s.flags.cy addr ∧
    JumpsWhen s (.jpo addr) (!s.flags.p) addr ∧ JumpsWhen s (.jpe addr) s.flags.p addr ∧
    JumpsWhen s (.jp addr) (!s.flags.s) addr ∧ JumpsWhen s (.jm addr) s.flags.s addr

/-- CALL and the eight conditional calls (R180 to R190). That the high byte is written first is D18 (entry 39); the DMA
agent's turn between the two writes (R54, R68; entry 18) shows the order. -/
def Obligations.CallsPushTheNextAddressWhenTheConditionHolds : Prop :=
  ∀ (s : State) (addr : Word), Memory.wf s.mem = true →
    CallsWhen s (.call addr) true addr ∧
    CallsWhen s (.cnz addr) (!s.flags.z) addr ∧ CallsWhen s (.cz addr) s.flags.z addr ∧
    CallsWhen s (.cnc addr) (!s.flags.cy) addr ∧ CallsWhen s (.cc addr) s.flags.cy addr ∧
    CallsWhen s (.cpo addr) (!s.flags.p) addr ∧ CallsWhen s (.cpe addr) s.flags.p addr ∧
    CallsWhen s (.cp addr) (!s.flags.s) addr ∧ CallsWhen s (.cm addr) s.flags.s addr

/-- RET and the eight conditional returns (R180, R181, R201 to R208, R210), with the DMA agent's turn between the two
reads (R54, R68; entry 18). -/
def Obligations.ReturnsPopThePcWhenTheConditionHolds : Prop :=
  ∀ s : State,
    ReturnsWhen s .ret true ∧
    ReturnsWhen s .rnz (!s.flags.z) ∧ ReturnsWhen s .rz s.flags.z ∧
    ReturnsWhen s .rnc (!s.flags.cy) ∧ ReturnsWhen s .rc s.flags.cy ∧
    ReturnsWhen s .rpo (!s.flags.p) ∧ ReturnsWhen s .rpe s.flags.p ∧
    ReturnsWhen s .rp (!s.flags.s) ∧ ReturnsWhen s .rm s.flags.s

/-- RST (R209, R76): encoding, the push of the next address, the target eight times the code, timing. That the high byte
is written first is D18 (entry 39); the DMA agent's turn between the two writes (R54, R68; entry 18) shows the order. -/
def Obligations.RestartPushesAndGoesToEightTimesItsCode : Prop :=
  ∀ (s : State) (code : BitVec 3) (taken : Bool), Memory.wf s.mem = true →
    (∃ t, exec (.rst code) s = .next t ∧ Pushed s t s.pc ∧ t.pc.toNat = 8 * code.toNat ∧ t.regs = s.regs ∧
      t.flags = s.flags ∧ SameRest s t) ∧
    encode (.rst code) = [BitVec.ofNat 8 (0xC7 + 8 * code.toNat)] ∧
    timing .i8080 (.rst code) taken = { cycles := some 3, states := some 11 } ∧
    timing .i8085 (.rst code) taken = { cycles := some 3, states := some 12 }

/-- A call and the return of its routine (R182, R202): control is back at the instruction after the call, SP, the
registers and the flags are as before, and no byte but the two of the return address has changed, the writes of a DMA
agent between byte accesses apart. That agent does not touch the two bytes. -/
def Obligations.ReturnUndoesCall : Prop :=
  ∀ (s : State) (addr : Word), Memory.wf s.mem = true → StackRoom s →
    ¬ DmaTouches s .data2 (s.sp - 1) → ¬ DmaTouches s .data2 (s.sp - 2) →
    ∃ t, execAll [.call addr, .ret] s = .next t ∧ t.pc = s.pc ∧ t.sp = s.sp ∧ t.regs = s.regs ∧ t.flags = s.flags ∧
      SameMemoryBut (s.dmaTurn .data2) t [s.sp - 1, s.sp - 2] ∧ SameRest s t

/-! ### Stack, input and output, machine control -/

/-- PUSH (R227, R32), with the DMA agent's turn between its two writes (R54, R68; entry 18). The bits 5, 3 and 1 of the flag byte are a free value on the 8085 (entry 11). -/
def Obligations.PushStoresThePairOrThePsw : Prop :=
  ∀ s : State, Memory.wf s.mem = true →
    PushesWord s (.push .b) (256 * s.regs.b.toNat + s.regs.c.toNat) ∧
    PushesWord s (.push .d) (256 * s.regs.d.toNat + s.regs.e.toNat) ∧
    PushesWord s (.push .h) (256 * s.regs.h.toNat + s.regs.l.toNat) ∧
    ∃ f : Byte, PushesWord s (.push .psw) (256 * s.regs.a.toNat + f.toNat) ∧
      f.getLsbD 7 = s.flags.s ∧ f.getLsbD 6 = s.flags.z ∧ f.getLsbD 4 = s.flags.ac ∧ f.getLsbD 2 = s.flags.p ∧
      f.getLsbD 0 = s.flags.cy ∧
      (s.variant = .i8080 → f.getLsbD 5 = false ∧ f.getLsbD 3 = false ∧ f.getLsbD 1 = true)

/-- POP (R226), its two reads with the DMA agent's turn between them (R54, R68; entry 18). That the filler bits are
dropped is D12 (entry 23). -/
def Obligations.PopLoadsThePairOrThePsw : Prop :=
  ∀ s : State,
    exec (.pop .b) s = .next { s.dmaTurn .data2 with
      sp := s.sp + 2, regs := { s.regs with b := stackHigh s, c := s.read8 s.sp } } ∧
    exec (.pop .d) s = .next { s.dmaTurn .data2 with
      sp := s.sp + 2, regs := { s.regs with d := stackHigh s, e := s.read8 s.sp } } ∧
    exec (.pop .h) s = .next { s.dmaTurn .data2 with
      sp := s.sp + 2, regs := { s.regs with h := stackHigh s, l := s.read8 s.sp } } ∧
    exec (.pop .psw) s = .next { s.dmaTurn .data2 with
      sp := s.sp + 2
      regs := { s.regs with a := stackHigh s }
      flags := { s := (s.read8 s.sp).getLsbD 7, z := (s.read8 s.sp).getLsbD 6, ac := (s.read8 s.sp).getLsbD 4
                 p := (s.read8 s.sp).getLsbD 2, cy := (s.read8 s.sp).getLsbD 0 } }

/-- The save and restore sequence of R265: whatever a service routine leaves in the registers and the flags, the pops in
the opposite order of the pushes restore all of them and SP. The eight stack bytes are RAM, and neither the routine nor
a DMA agent touches them. -/
def Obligations.SaveAndRestoreSequenceRestoresEverything : Prop :=
  ∀ (s : State) (r : Regs) (f : Flags), Memory.wf s.mem = true →
    (∀ k : Nat, 1 ≤ k → k ≤ 8 → s.kindAt (s.sp - BitVec.ofNat 16 k) = .ram ∧
      ¬ DmaTouches s .data2 (s.sp - BitVec.ofNat 16 k)) →
    ∃ u t, execAll [.push .psw, .push .b, .push .d, .push .h] s = .next u ∧
      execAll [.pop .h, .pop .d, .pop .b, .pop .psw] { u with regs := r, flags := f } = .next t ∧
      t.regs = s.regs ∧ t.flags = s.flags ∧ t.sp = s.sp ∧ t.pc = s.pc ∧ SameRest s t

/-- XTHL (R231): HL and the two bytes on top of the stack change places; SP stays. Four byte accesses in the order of
D19 (entry 39), with the DMA agent's turn between any two (R61, R68; entry 18). -/
def Obligations.ExchangeWithTopOfStack : Prop :=
  ∀ s : State, Memory.wf s.mem = true →
    ∃ t, exec .xthl s = .next t ∧ t.regs = { s.regs with h := stackHigh s, l := s.read8 s.sp } ∧
      TakesByteBefore s t .data4 (s.sp + 1) s.regs.h ∧ TakesByte s t s.sp s.regs.l ∧
      SameMemoryBut (((s.dmaTurn .data2).dmaTurn .data3).dmaTurn .data4) t [s.sp, s.sp + 1] ∧
      t.sp = s.sp ∧ t.flags = s.flags ∧ t.pc = s.pc ∧ SameRest s t

/-- IN and OUT (R223, R225): one port access each, in the history; IN loads A, no flag changes. What IN reads is the
environment's byte, else a free value (entry 12); the history is the model's own field (D20, entry 35). -/
def Obligations.InputAndOutputMakeOnePortAccess : Prop :=
  ∀ (s : State) (port : Byte),
    (∀ x, s.now.portIn = some x →
      exec (.inPort port) s = .next { s with regs := { s.regs with a := x }, io := s.io ++ [.portRead port x] }) ∧
    (s.now.portIn = none →
      exec (.inPort port) s = .next { s with
        regs := { s.regs with a := Config.portIn s.io port }
        io := s.io ++ [.portRead port (Config.portIn s.io port)] }) ∧
    exec (.outPort port) s = .next { s with io := s.io ++ [.portWrite port s.regs.a] }

/-- NOP, HLT, EI, DI (R220, R221, R222, R224) before the completion rule. That DI cancels a pending enable is D13
(entry 24). -/
def Obligations.MachineControlInstructions : Prop :=
  ∀ s : State,
    exec .nop s = .next s ∧
    exec .hlt s = .next { s with ctl := { s.ctl with halted := true } } ∧
    exec .ei s = .next { s with ctl := { s.ctl with eiPending := true } } ∧
    exec .di s = .next { s with ctl := { s.ctl with inte := false, eiPending := false } }

/-- RIM (R228, R39) on the 8085, and its refusal on the 8080 (R84, D3, entry 26). Bits 5 and 4 are D24 (entry 28). -/
def Obligations.ReadInterruptMask : Prop :=
  ∀ s : State,
    (s.variant = .i8085 → ∃ t, exec .rim s = .next t ∧ (∀ x, s.now.sid = some x → t.regs.a.getLsbD 7 = x) ∧
      t.regs.a.getLsbD 6 = s.ext.r75 ∧ t.regs.a.getLsbD 5 = s.now.rst65 ∧ t.regs.a.getLsbD 4 = s.now.rst55 ∧
      t.regs.a.getLsbD 3 = s.ctl.inte ∧ t.regs.a.getLsbD 2 = s.ext.m75 ∧ t.regs.a.getLsbD 1 = s.ext.m65 ∧
      t.regs.a.getLsbD 0 = s.ext.m55 ∧ t.regs = { s.regs with a := t.regs.a } ∧ t.flags = s.flags ∧ t.sp = s.sp ∧
      t.pc = s.pc ∧ SameMemory s t ∧ SameRest s t) ∧
    (s.variant = .i8080 → exec .rim s = .refused (.undefinedOpcode 0x20))

/-- SIM (R229, R40) on the 8085: three parts, each behind its own enable bit, and nothing else; its refusal on the 8080
(R84, D3, entry 26). Which of bits 1 and 0 masks RST6.5, and that bit 5 is ignored, is D23 (entry 28). -/
def Obligations.SetInterruptMask : Prop :=
  ∀ s : State,
    (s.variant = .i8085 → ∃ x : Ext85, exec .sim s = .next { s with ext := x } ∧
      (s.regs.a.getLsbD 3 = true →
        x.m75 = s.regs.a.getLsbD 2 ∧ x.m65 = s.regs.a.getLsbD 1 ∧ x.m55 = s.regs.a.getLsbD 0) ∧
      (s.regs.a.getLsbD 3 = false → x.m75 = s.ext.m75 ∧ x.m65 = s.ext.m65 ∧ x.m55 = s.ext.m55) ∧
      (s.regs.a.getLsbD 4 = true → x.r75 = false) ∧ (s.regs.a.getLsbD 4 = false → x.r75 = s.ext.r75) ∧
      (s.regs.a.getLsbD 6 = true → x.sod = s.regs.a.getLsbD 7) ∧ (s.regs.a.getLsbD 6 = false → x.sod = s.ext.sod)) ∧
    (s.variant = .i8080 → exec .sim s = .refused (.undefinedOpcode 0x30))

/-! ### All instructions -/

/-- Every well-formed instruction completes in every state (R250: no exception); the ill-formed terms are refused by
name (R84, R104; entries 26, 33). -/
def Obligations.WellFormedInstructionsComplete : Prop :=
  ∀ (i : Instr) (s : State),
    (i.wellFormed s.variant = true → ∃ t, exec i s = .next t) ∧
    (i.wellFormed s.variant = false →
      exec i s = .refused .movMemoryToMemory ∨ exec i s = .refused (.undefinedOpcode 0x20) ∨
        exec i s = .refused (.undefinedOpcode 0x30))

/-- R33 over all instructions: which write no flag, which write CY alone, which leave CY. -/
def Obligations.OnlyTheListedInstructionsWriteFlags : Prop :=
  ∀ (i : Instr) (s t : State), exec i s = .next t →
    (writesFlags i = false → t.flags = s.flags) ∧
    (writesCarryOnly i = true → t.flags = { s.flags with cy := t.flags.cy }) ∧
    (∀ o, i = .inr o ∨ i = .dcr o → t.flags.cy = s.flags.cy)

/-- No instruction but DI, EI and HLT writes a control bit, none but SIM a bit of the 8085, none but IN and OUT reaches a
port (R51), and none changes the parameters, the inputs to come or the step's number. -/
def Obligations.ControlStateFrameOfEveryInstruction : Prop :=
  ∀ (i : Instr) (s t : State), exec i s = .next t →
    (i ≠ .di → i ≠ .ei → i ≠ .hlt → t.ctl = s.ctl) ∧ (i ≠ .sim → t.ext = s.ext) ∧
    ((∀ port, i ≠ .inPort port ∧ i ≠ .outPort port) → t.io = s.io) ∧
    t.platform = s.platform ∧ t.env = s.env ∧ t.tick = s.tick

/-- Which instructions may write memory, SP (R23) and pc (R25). One that reads two bytes and writes none leaves memory
as the DMA agent's turn between its reads leaves it. -/
def Obligations.MemoryStackPointerAndPcFrameOfEveryInstruction : Prop :=
  ∀ (i : Instr) (s t : State), exec i s = .next t →
    (storesMemory i = false → t.mem = s.mem ∨ (readsTwoBytes i = true ∧ t.mem = (s.dmaTurn .data2).mem)) ∧
    (movesSp i = false → t.sp = s.sp) ∧ (writesPc i = false → t.pc = s.pc)

/-! ### Steps -/

/-- A step with no RESET, no accepted request and no halt runs the instruction that the bytes at pc decode to, with pc
already past it (R9, R25) and the DMA agent's turns between the fetches and before the first data access behind it
(R54), and then applies the completion rule (R256) and moves to the next boundary. -/
def Obligations.StepRunsTheDecodedInstruction : Prop :=
  ∀ (s : State) (i : Instr) (rest : List Byte), s.now.reset = false → s.taken = none → s.ctl.halted = false →
    decode s.variant s.boundary.fetchBytes = .ok (i, rest) →
    ∀ u, exec i (s.boundary.afterFetch (encode i).length) = .next u →
      step s = .next (u.complete s.ctl.eiPending i).endStep

/-- The same from the bytes in memory: where the encoding of a well-formed instruction stands at pc (addresses modulo
2^16), each byte when it is fetched, that instruction is what the step runs, and it completes. -/
def Obligations.StepRunsTheEncodingAtPc : Prop :=
  ∀ (s : State) (i : Instr), s.now.reset = false → s.taken = none → s.ctl.halted = false →
    i.wellFormed s.variant = true →
    (∀ k b, (encode i)[k]? = some b → (s.boundary.beforeByte k).fetch8 (s.pc + BitVec.ofNat 16 k) = b) →
    ∃ u, exec i (s.boundary.afterFetch (encode i).length) = .next u ∧
      step s = .next (u.complete s.ctl.eiPending i).endStep

/-- A step that fetches an undefined first byte ends the run with that verdict (R83, R84, R251; D2, D3, entry 26). -/
def Obligations.StepRefusesAnUndefinedFirstByte : Prop :=
  ∀ (s : State) (b : Byte), s.now.reset = false → s.taken = none → s.ctl.halted = false →
    s.boundary.fetch8 s.pc = b →
    (b ∈ [0x08, 0x10, 0x18, 0x28, 0x38, 0xCB, 0xD9, 0xDD, 0xED, 0xFD] ∨ (s.variant = .i8080 ∧ (b = 0x20 ∨ b = 0x30))) →
    step s = .refused (.undefinedOpcode b)

/-- The values R43 and R290 give the state after RESET. -/
def Obligations.ResetStateHoldsTheStatedValues : Prop :=
  State.reset.pc = 0 ∧ State.reset.ctl.inte = false ∧ State.reset.ctl.eiPending = false ∧
    State.reset.ctl.intInhibit = false ∧ State.reset.ctl.halted = false ∧ State.reset.ext.r75 = false

/-- The RESET signal in any state (R274, R290): the forced values, no push, memory as it is; it wins over every request
and over the halt (the spec's inference in R290). -/
def Obligations.ResetSignalForcesItsValuesInAnyState : Prop :=
  ∀ s : State, s.now.reset = true →
    ∃ t, step s = .next t ∧ t.pc = 0 ∧
      t.ctl = { inte := false, eiPending := false, intInhibit := false, halted := false } ∧
      (s.variant = .i8085 → t.ext.r75 = false) ∧ t.mem = (s.dmaTurn .boundary).mem ∧
      t.platform = s.platform ∧ t.io = s.io

/-! ### Interrupts -/

/-- R254: at a boundary that is not inhibited and where the oracle accepts, a request is taken exactly when one stands,
and the one taken stands; where the oracle does not accept, none is. -/
def Obligations.ARequestIsTakenExactlyWhenOneStands : Prop :=
  ∀ s : State, s.now.reset = false →
    (s.now.accept = false → s.taken = none) ∧
    (s.ctl.intInhibit = false → s.now.accept = true →
      (∀ src, s.taken = some src → RequestStands s.boundary src) ∧
      (s.taken = none → ∀ src, ¬ RequestStands s.boundary src))

/-- R261 with `IntPriority` as a parameter (D15, entry 15): no request that stands is passed over for a later one. -/
def Obligations.TheTakenRequestHasThePriority : Prop :=
  ∀ (s : State) (src : IntSource) (before after : List IntSource), s.platform.priority = before ++ src :: after →
    src ∉ before → s.taken = some src → ∀ x ∈ before, ¬ RequestStands s.boundary x

/-- R258: the entry of RST5.5, RST6.5 and RST7.5. That its push writes the high byte first is D18 (entry 39); the DMA
agent's turn between the two writes (R54, R68; entry 18) shows the order. -/
def Obligations.RestartInputsEnterAtTheirAddresses : Prop :=
  ∀ (s : State) (src : IntSource) (target : Word), Memory.wf s.mem = true → s.taken = some src →
    (src = .rst55 ∧ target = 0x002C) ∨ (src = .rst65 ∧ target = 0x0034) ∨ (src = .rst75 ∧ target = 0x003C) →
    ∃ t, step s = .next t.endStep ∧ EntersAt s.boundary t target ∧
      t.ext = { s.boundary.ext with r75 := if src = .rst75 then false else s.boundary.ext.r75 }

/-- R259: TRAP enters at 0x0024 whatever INTE and the mask are. That its entry clears INTE is D25 (entry 27).
The two writes of its push are as those of R258's (D18, R54; entries 39 and 18). -/
def Obligations.TrapEntersWhateverTheEnablesAre : Prop :=
  ∀ s : State, Memory.wf s.mem = true → s.taken = some .trap →
    ∃ t, step s = .next t.endStep ∧ EntersAt s.boundary t 0x0024 ∧ t.ext = s.boundary.ext

/-- R257: an accepted INT runs the one-byte instruction its device supplies, with pc not advanced (D17), and then the
completion rule; an RST n so pushes the pc of the interrupted program; any byte that is no one-byte instruction is the
verdict of D16 (entry 25). The two writes of the push are as those of RST (D18, R54; entries 39 and 18). -/
def Obligations.AcceptedIntRunsTheSuppliedInstruction : Prop :=
  ∀ s : State, s.taken = some .int →
    (∀ i u, decode s.variant [s.now.intByte] = .ok (i, []) → exec i s.boundary.recognise = .next u →
      step s = .next (u.complete s.ctl.eiPending i).endStep) ∧
    (∀ code : BitVec 3, s.now.intByte.toNat = 0xC7 + 8 * code.toNat → Memory.wf s.mem = true →
      s.ctl.eiPending = false →
      ∃ t, step s = .next t.endStep ∧ EntersAt s.boundary t (BitVec.ofNat 16 (8 * code.toNat))) ∧
    ((∀ i, decode s.variant [s.now.intByte] ≠ .ok (i, [])) →
      step s = .refused (.badInterruptInstruction s.now.intByte))

/-- R260: an edge sets the RST7.5 flip-flop before acceptance is decided; after a step of the 8085 it is 1 exactly
when it was 1 or an edge came, and none of the three events of R38 has reset it: RESET, recognition, a SIM with bit 4
of A set. -/
def Obligations.FlipFlopHoldsUntilOneOfItsThreeResets : Prop :=
  ∀ s t : State, step s = .next t → s.variant = .i8085 →
    (s.boundary.ext.r75 = true ↔ s.ext.r75 = true ∨ s.now.rst75 = true) ∧
    (t.ext.r75 = true ↔ (s.ext.r75 = true ∨ s.now.rst75 = true) ∧ s.now.reset = false ∧ s.taken ≠ some .rst75 ∧
      ¬ (s.running = some .sim ∧ s.regs.a.getLsbD 4 = true))

/-- R36: HLT alone sets Halted; an accepted request and RESET alone clear it; while it is 1 nothing is fetched. That a
halted step is always a next state, with IntInhibit 0 after it (R9), is the model's choice, which does not take the
verdict Stopped of D28 (entry 29). -/
def Obligations.HaltedIsSetByHltAndClearedByInterruptOrReset : Prop :=
  ∀ s : State,
    (∀ t, step s = .next t → (t.ctl.halted = true ↔
      s.running = some .hlt ∨ (s.ctl.halted = true ∧ s.taken = none ∧ s.now.reset = false))) ∧
    (s.ctl.halted = true → s.taken = none → s.now.reset = false → step s = .next s.boundary.idle.endStep)

/-- R256, for a step that runs an instruction, fetched or supplied; and INTE is set by nothing but the completion of the
instruction after an EI. -/
def Obligations.CompletionRuleSetsTheInterruptBits : Prop :=
  ∀ s t : State, step s = .next t →
    (∀ i, s.running = some i →
      t.ctl.eiPending = decide (i = .ei) ∧ t.ctl.intInhibit = decide (i = .ei ∨ i = .di) ∧
      (t.ctl.inte = true ↔
        i ≠ .di ∧ (s.ctl.eiPending = true ∨ (s.ctl.inte = true ∧ s.taken ≠ some .int)))) ∧
    (t.ctl.inte = true → s.ctl.inte = true ∨ s.ctl.eiPending = true)

/-- R255 as D14 reads it (entry 24): nothing is accepted at the boundary after an EI or a DI; and the EI delay (R35,
R221): INTE is 1 once the instruction after an EI completes, unless that is a DI (D13). -/
def Obligations.NothingIsAcceptedRightAfterEiOrDi : Prop :=
  ∀ s t : State, step s = .next t →
    (s.running = some .ei ∨ s.running = some .di → t.taken = none) ∧
    (s.running = some .ei → ∀ i u, t.running = some i → step t = .next u → (u.ctl.inte = true ↔ i ≠ .di))

/-! ### The machine -/

/-- The invariant, from every state that has it, over every step: instruction, entry, idle step or RESET. -/
def Obligations.EveryStepKeepsTheInvariant : Prop :=
  ∀ s t : State, s.Inv → step s = .next t → t.Inv

/-- The state after reset has the invariant. -/
def Obligations.ResetStateHasTheInvariant : Prop := State.reset.Inv

/-- R222, R251, R272: halted with interrupts off, on the 8085 with no TRAP to arrive, and with no RESET to come, the
processor stays halted for ever, and its registers, flags, SP and pc stay. Each such step is a next state here (D28,
entry 29). -/
def Obligations.HaltedWithInterruptsOffStaysHalted : Prop :=
  ∀ (n : Nat) (s : State), s.stopped = true → (∀ x ∈ s.env, x.reset = false) →
    ∃ t, Sys2Proof.core.run n s = .next t ∧ t.stopped = true ∧ t.regs = s.regs ∧ t.flags = s.flags ∧ t.sp = s.sp ∧
      t.pc = s.pc ∧ t.io = s.io

end
end

