-- ==== Sys2Proof/Laws/State.lean ====
section
/-! SUPPORT. What each plain update of the state leaves in each field: true by definition, so that no later proof
unfolds a record. -/

namespace Sys2Proof.Machine

/-! `setA` -/
@[simp] theorem State.setA_regs (s : State) (v : Byte) : (s.setA v).regs = { s.regs with a := v } := rfl
@[simp] theorem State.setA_flags (s : State) (v : Byte) : (s.setA v).flags = s.flags := rfl
@[simp] theorem State.setA_sp (s : State) (v : Byte) : (s.setA v).sp = s.sp := rfl
@[simp] theorem State.setA_pc (s : State) (v : Byte) : (s.setA v).pc = s.pc := rfl
@[simp] theorem State.setA_ctl (s : State) (v : Byte) : (s.setA v).ctl = s.ctl := rfl
@[simp] theorem State.setA_ext (s : State) (v : Byte) : (s.setA v).ext = s.ext := rfl
@[simp] theorem State.setA_platform (s : State) (v : Byte) : (s.setA v).platform = s.platform := rfl
@[simp] theorem State.setA_mem (s : State) (v : Byte) : (s.setA v).mem = s.mem := rfl
@[simp] theorem State.setA_io (s : State) (v : Byte) : (s.setA v).io = s.io := rfl
@[simp] theorem State.setA_env (s : State) (v : Byte) : (s.setA v).env = s.env := rfl
@[simp] theorem State.setA_tick (s : State) (v : Byte) : (s.setA v).tick = s.tick := rfl

/-! `setBC` -/
@[simp] theorem State.setBC_regs (s : State) (v : Word) : (s.setBC v).regs = { s.regs with b := hiByte v, c := loByte v } := rfl
@[simp] theorem State.setBC_flags (s : State) (v : Word) : (s.setBC v).flags = s.flags := rfl
@[simp] theorem State.setBC_sp (s : State) (v : Word) : (s.setBC v).sp = s.sp := rfl
@[simp] theorem State.setBC_pc (s : State) (v : Word) : (s.setBC v).pc = s.pc := rfl
@[simp] theorem State.setBC_ctl (s : State) (v : Word) : (s.setBC v).ctl = s.ctl := rfl
@[simp] theorem State.setBC_ext (s : State) (v : Word) : (s.setBC v).ext = s.ext := rfl
@[simp] theorem State.setBC_platform (s : State) (v : Word) : (s.setBC v).platform = s.platform := rfl
@[simp] theorem State.setBC_mem (s : State) (v : Word) : (s.setBC v).mem = s.mem := rfl
@[simp] theorem State.setBC_io (s : State) (v : Word) : (s.setBC v).io = s.io := rfl
@[simp] theorem State.setBC_env (s : State) (v : Word) : (s.setBC v).env = s.env := rfl
@[simp] theorem State.setBC_tick (s : State) (v : Word) : (s.setBC v).tick = s.tick := rfl

/-! `setDE` -/
@[simp] theorem State.setDE_regs (s : State) (v : Word) : (s.setDE v).regs = { s.regs with d := hiByte v, e := loByte v } := rfl
@[simp] theorem State.setDE_flags (s : State) (v : Word) : (s.setDE v).flags = s.flags := rfl
@[simp] theorem State.setDE_sp (s : State) (v : Word) : (s.setDE v).sp = s.sp := rfl
@[simp] theorem State.setDE_pc (s : State) (v : Word) : (s.setDE v).pc = s.pc := rfl
@[simp] theorem State.setDE_ctl (s : State) (v : Word) : (s.setDE v).ctl = s.ctl := rfl
@[simp] theorem State.setDE_ext (s : State) (v : Word) : (s.setDE v).ext = s.ext := rfl
@[simp] theorem State.setDE_platform (s : State) (v : Word) : (s.setDE v).platform = s.platform := rfl
@[simp] theorem State.setDE_mem (s : State) (v : Word) : (s.setDE v).mem = s.mem := rfl
@[simp] theorem State.setDE_io (s : State) (v : Word) : (s.setDE v).io = s.io := rfl
@[simp] theorem State.setDE_env (s : State) (v : Word) : (s.setDE v).env = s.env := rfl
@[simp] theorem State.setDE_tick (s : State) (v : Word) : (s.setDE v).tick = s.tick := rfl

/-! `setHL` -/
@[simp] theorem State.setHL_regs (s : State) (v : Word) : (s.setHL v).regs = { s.regs with h := hiByte v, l := loByte v } := rfl
@[simp] theorem State.setHL_flags (s : State) (v : Word) : (s.setHL v).flags = s.flags := rfl
@[simp] theorem State.setHL_sp (s : State) (v : Word) : (s.setHL v).sp = s.sp := rfl
@[simp] theorem State.setHL_pc (s : State) (v : Word) : (s.setHL v).pc = s.pc := rfl
@[simp] theorem State.setHL_ctl (s : State) (v : Word) : (s.setHL v).ctl = s.ctl := rfl
@[simp] theorem State.setHL_ext (s : State) (v : Word) : (s.setHL v).ext = s.ext := rfl
@[simp] theorem State.setHL_platform (s : State) (v : Word) : (s.setHL v).platform = s.platform := rfl
@[simp] theorem State.setHL_mem (s : State) (v : Word) : (s.setHL v).mem = s.mem := rfl
@[simp] theorem State.setHL_io (s : State) (v : Word) : (s.setHL v).io = s.io := rfl
@[simp] theorem State.setHL_env (s : State) (v : Word) : (s.setHL v).env = s.env := rfl
@[simp] theorem State.setHL_tick (s : State) (v : Word) : (s.setHL v).tick = s.tick := rfl

/-! `setAFlags` -/
@[simp] theorem State.setAFlags_regs (s : State) (r : Byte × Flags) : (s.setAFlags r).regs = { s.regs with a := r.1 } := rfl
@[simp] theorem State.setAFlags_flags (s : State) (r : Byte × Flags) : (s.setAFlags r).flags = r.2 := rfl
@[simp] theorem State.setAFlags_sp (s : State) (r : Byte × Flags) : (s.setAFlags r).sp = s.sp := rfl
@[simp] theorem State.setAFlags_pc (s : State) (r : Byte × Flags) : (s.setAFlags r).pc = s.pc := rfl
@[simp] theorem State.setAFlags_ctl (s : State) (r : Byte × Flags) : (s.setAFlags r).ctl = s.ctl := rfl
@[simp] theorem State.setAFlags_ext (s : State) (r : Byte × Flags) : (s.setAFlags r).ext = s.ext := rfl
@[simp] theorem State.setAFlags_platform (s : State) (r : Byte × Flags) : (s.setAFlags r).platform = s.platform := rfl
@[simp] theorem State.setAFlags_mem (s : State) (r : Byte × Flags) : (s.setAFlags r).mem = s.mem := rfl
@[simp] theorem State.setAFlags_io (s : State) (r : Byte × Flags) : (s.setAFlags r).io = s.io := rfl
@[simp] theorem State.setAFlags_env (s : State) (r : Byte × Flags) : (s.setAFlags r).env = s.env := rfl
@[simp] theorem State.setAFlags_tick (s : State) (r : Byte × Flags) : (s.setAFlags r).tick = s.tick := rfl

/-! `rotated` -/
@[simp] theorem State.rotated_regs (s : State) (a : Byte) (cy : Bool) : (s.rotated a cy).regs = { s.regs with a := a } := rfl
@[simp] theorem State.rotated_flags (s : State) (a : Byte) (cy : Bool) : (s.rotated a cy).flags = { s.flags with cy := cy } := rfl
@[simp] theorem State.rotated_sp (s : State) (a : Byte) (cy : Bool) : (s.rotated a cy).sp = s.sp := rfl
@[simp] theorem State.rotated_pc (s : State) (a : Byte) (cy : Bool) : (s.rotated a cy).pc = s.pc := rfl
@[simp] theorem State.rotated_ctl (s : State) (a : Byte) (cy : Bool) : (s.rotated a cy).ctl = s.ctl := rfl
@[simp] theorem State.rotated_ext (s : State) (a : Byte) (cy : Bool) : (s.rotated a cy).ext = s.ext := rfl
@[simp] theorem State.rotated_platform (s : State) (a : Byte) (cy : Bool) : (s.rotated a cy).platform = s.platform := rfl
@[simp] theorem State.rotated_mem (s : State) (a : Byte) (cy : Bool) : (s.rotated a cy).mem = s.mem := rfl
@[simp] theorem State.rotated_io (s : State) (a : Byte) (cy : Bool) : (s.rotated a cy).io = s.io := rfl
@[simp] theorem State.rotated_env (s : State) (a : Byte) (cy : Bool) : (s.rotated a cy).env = s.env := rfl
@[simp] theorem State.rotated_tick (s : State) (a : Byte) (cy : Bool) : (s.rotated a cy).tick = s.tick := rfl

/-! `jump` -/
@[simp] theorem State.jump_regs (s : State) (w : Word) : (s.jump w).regs = s.regs := rfl
@[simp] theorem State.jump_flags (s : State) (w : Word) : (s.jump w).flags = s.flags := rfl
@[simp] theorem State.jump_sp (s : State) (w : Word) : (s.jump w).sp = s.sp := rfl
@[simp] theorem State.jump_pc (s : State) (w : Word) : (s.jump w).pc = w := rfl
@[simp] theorem State.jump_ctl (s : State) (w : Word) : (s.jump w).ctl = s.ctl := rfl
@[simp] theorem State.jump_ext (s : State) (w : Word) : (s.jump w).ext = s.ext := rfl
@[simp] theorem State.jump_platform (s : State) (w : Word) : (s.jump w).platform = s.platform := rfl
@[simp] theorem State.jump_mem (s : State) (w : Word) : (s.jump w).mem = s.mem := rfl
@[simp] theorem State.jump_io (s : State) (w : Word) : (s.jump w).io = s.io := rfl
@[simp] theorem State.jump_env (s : State) (w : Word) : (s.jump w).env = s.env := rfl
@[simp] theorem State.jump_tick (s : State) (w : Word) : (s.jump w).tick = s.tick := rfl

/-! `advance` -/
@[simp] theorem State.advance_regs (s : State) (n : Nat) : (s.advance n).regs = s.regs := rfl
@[simp] theorem State.advance_flags (s : State) (n : Nat) : (s.advance n).flags = s.flags := rfl
@[simp] theorem State.advance_sp (s : State) (n : Nat) : (s.advance n).sp = s.sp := rfl
@[simp] theorem State.advance_pc (s : State) (n : Nat) : (s.advance n).pc = s.pc + BitVec.ofNat 16 n := rfl
@[simp] theorem State.advance_ctl (s : State) (n : Nat) : (s.advance n).ctl = s.ctl := rfl
@[simp] theorem State.advance_ext (s : State) (n : Nat) : (s.advance n).ext = s.ext := rfl
@[simp] theorem State.advance_platform (s : State) (n : Nat) : (s.advance n).platform = s.platform := rfl
@[simp] theorem State.advance_mem (s : State) (n : Nat) : (s.advance n).mem = s.mem := rfl
@[simp] theorem State.advance_io (s : State) (n : Nat) : (s.advance n).io = s.io := rfl
@[simp] theorem State.advance_env (s : State) (n : Nat) : (s.advance n).env = s.env := rfl
@[simp] theorem State.advance_tick (s : State) (n : Nat) : (s.advance n).tick = s.tick := rfl

/-! `record` -/
@[simp] theorem State.record_regs (s : State) (e : IoEvent) : (s.record e).regs = s.regs := rfl
@[simp] theorem State.record_flags (s : State) (e : IoEvent) : (s.record e).flags = s.flags := rfl
@[simp] theorem State.record_sp (s : State) (e : IoEvent) : (s.record e).sp = s.sp := rfl
@[simp] theorem State.record_pc (s : State) (e : IoEvent) : (s.record e).pc = s.pc := rfl
@[simp] theorem State.record_ctl (s : State) (e : IoEvent) : (s.record e).ctl = s.ctl := rfl
@[simp] theorem State.record_ext (s : State) (e : IoEvent) : (s.record e).ext = s.ext := rfl
@[simp] theorem State.record_platform (s : State) (e : IoEvent) : (s.record e).platform = s.platform := rfl
@[simp] theorem State.record_mem (s : State) (e : IoEvent) : (s.record e).mem = s.mem := rfl
@[simp] theorem State.record_io (s : State) (e : IoEvent) : (s.record e).io = s.io ++ [e] := rfl
@[simp] theorem State.record_env (s : State) (e : IoEvent) : (s.record e).env = s.env := rfl
@[simp] theorem State.record_tick (s : State) (e : IoEvent) : (s.record e).tick = s.tick := rfl

/-! `recognise` -/
@[simp] theorem State.recognise_regs (s : State) : (s.recognise).regs = s.regs := rfl
@[simp] theorem State.recognise_flags (s : State) : (s.recognise).flags = s.flags := rfl
@[simp] theorem State.recognise_sp (s : State) : (s.recognise).sp = s.sp := rfl
@[simp] theorem State.recognise_pc (s : State) : (s.recognise).pc = s.pc := rfl
@[simp] theorem State.recognise_ctl (s : State) : (s.recognise).ctl = { s.ctl with inte := false, halted := false } := rfl
@[simp] theorem State.recognise_ext (s : State) : (s.recognise).ext = s.ext := rfl
@[simp] theorem State.recognise_platform (s : State) : (s.recognise).platform = s.platform := rfl
@[simp] theorem State.recognise_mem (s : State) : (s.recognise).mem = s.mem := rfl
@[simp] theorem State.recognise_io (s : State) : (s.recognise).io = s.io := rfl
@[simp] theorem State.recognise_env (s : State) : (s.recognise).env = s.env := rfl
@[simp] theorem State.recognise_tick (s : State) : (s.recognise).tick = s.tick := rfl

/-! `idle` -/
@[simp] theorem State.idle_regs (s : State) : (s.idle).regs = s.regs := rfl
@[simp] theorem State.idle_flags (s : State) : (s.idle).flags = s.flags := rfl
@[simp] theorem State.idle_sp (s : State) : (s.idle).sp = s.sp := rfl
@[simp] theorem State.idle_pc (s : State) : (s.idle).pc = s.pc := rfl
@[simp] theorem State.idle_ctl (s : State) : (s.idle).ctl = { s.ctl with intInhibit := false } := rfl
@[simp] theorem State.idle_ext (s : State) : (s.idle).ext = s.ext := rfl
@[simp] theorem State.idle_platform (s : State) : (s.idle).platform = s.platform := rfl
@[simp] theorem State.idle_mem (s : State) : (s.idle).mem = s.mem := rfl
@[simp] theorem State.idle_io (s : State) : (s.idle).io = s.io := rfl
@[simp] theorem State.idle_env (s : State) : (s.idle).env = s.env := rfl
@[simp] theorem State.idle_tick (s : State) : (s.idle).tick = s.tick := rfl

/-! `endStep` -/
@[simp] theorem State.endStep_regs (s : State) : (s.endStep).regs = s.regs := rfl
@[simp] theorem State.endStep_flags (s : State) : (s.endStep).flags = s.flags := rfl
@[simp] theorem State.endStep_sp (s : State) : (s.endStep).sp = s.sp := rfl
@[simp] theorem State.endStep_pc (s : State) : (s.endStep).pc = s.pc := rfl
@[simp] theorem State.endStep_ctl (s : State) : (s.endStep).ctl = s.ctl := rfl
@[simp] theorem State.endStep_ext (s : State) : (s.endStep).ext = s.ext := rfl
@[simp] theorem State.endStep_platform (s : State) : (s.endStep).platform = s.platform := rfl
@[simp] theorem State.endStep_mem (s : State) : (s.endStep).mem = s.mem := rfl
@[simp] theorem State.endStep_io (s : State) : (s.endStep).io = s.io := rfl
@[simp] theorem State.endStep_env (s : State) : (s.endStep).env = s.env.tail := rfl
@[simp] theorem State.endStep_tick (s : State) : (s.endStep).tick = s.tick + 1 := rfl

/-! `complete` -/
@[simp] theorem State.complete_regs (s : State) (p : Bool) (i : Instr) : (s.complete p i).regs = s.regs := rfl
@[simp] theorem State.complete_flags (s : State) (p : Bool) (i : Instr) : (s.complete p i).flags = s.flags := rfl
@[simp] theorem State.complete_sp (s : State) (p : Bool) (i : Instr) : (s.complete p i).sp = s.sp := rfl
@[simp] theorem State.complete_pc (s : State) (p : Bool) (i : Instr) : (s.complete p i).pc = s.pc := rfl
@[simp] theorem State.complete_ctl (s : State) (p : Bool) (i : Instr) : (s.complete p i).ctl = { s.ctl with inte := if p = true ∧ i ≠ .di then true else s.ctl.inte, eiPending := if i = .ei then s.ctl.eiPending else false, intInhibit := decide (i = .ei ∨ i = .di) } := rfl
@[simp] theorem State.complete_ext (s : State) (p : Bool) (i : Instr) : (s.complete p i).ext = s.ext := rfl
@[simp] theorem State.complete_platform (s : State) (p : Bool) (i : Instr) : (s.complete p i).platform = s.platform := rfl
@[simp] theorem State.complete_mem (s : State) (p : Bool) (i : Instr) : (s.complete p i).mem = s.mem := rfl
@[simp] theorem State.complete_io (s : State) (p : Bool) (i : Instr) : (s.complete p i).io = s.io := rfl
@[simp] theorem State.complete_env (s : State) (p : Bool) (i : Instr) : (s.complete p i).env = s.env := rfl
@[simp] theorem State.complete_tick (s : State) (p : Bool) (i : Instr) : (s.complete p i).tick = s.tick := rfl

/-! `compareWithA` -/
@[simp] theorem State.compareWithA_regs (s : State) (v : Byte) : (s.compareWithA v).regs = s.regs := rfl
@[simp] theorem State.compareWithA_flags (s : State) (v : Byte) : (s.compareWithA v).flags = (sub8 s.regs.a v false s.flags).2 := rfl
@[simp] theorem State.compareWithA_sp (s : State) (v : Byte) : (s.compareWithA v).sp = s.sp := rfl
@[simp] theorem State.compareWithA_pc (s : State) (v : Byte) : (s.compareWithA v).pc = s.pc := rfl
@[simp] theorem State.compareWithA_ctl (s : State) (v : Byte) : (s.compareWithA v).ctl = s.ctl := rfl
@[simp] theorem State.compareWithA_ext (s : State) (v : Byte) : (s.compareWithA v).ext = s.ext := rfl
@[simp] theorem State.compareWithA_platform (s : State) (v : Byte) : (s.compareWithA v).platform = s.platform := rfl
@[simp] theorem State.compareWithA_mem (s : State) (v : Byte) : (s.compareWithA v).mem = s.mem := rfl
@[simp] theorem State.compareWithA_io (s : State) (v : Byte) : (s.compareWithA v).io = s.io := rfl
@[simp] theorem State.compareWithA_env (s : State) (v : Byte) : (s.compareWithA v).env = s.env := rfl
@[simp] theorem State.compareWithA_tick (s : State) (v : Byte) : (s.compareWithA v).tick = s.tick := rfl

/-! `applyReset` -/
@[simp] theorem State.applyReset_pc (s : State) : s.applyReset.pc = 0 := rfl
@[simp] theorem State.applyReset_ctl (s : State) : s.applyReset.ctl =
    { inte := false, eiPending := false, intInhibit := false, halted := false } := rfl
@[simp] theorem State.applyReset_mem (s : State) : s.applyReset.mem = s.mem := rfl
@[simp] theorem State.applyReset_platform (s : State) : s.applyReset.platform = s.platform := rfl
@[simp] theorem State.applyReset_io (s : State) : s.applyReset.io = s.io := rfl
@[simp] theorem State.applyReset_env (s : State) : s.applyReset.env = s.env := rfl
@[simp] theorem State.applyReset_tick (s : State) : s.applyReset.tick = s.tick := rfl

end Sys2Proof.Machine
end

