-- ==== Sys2Proof/Laws/Memory.lean ====
section
/-! SUPPORT. Memory as data: the canonical form is kept by every operation, a byte written is the byte read, and every
other byte is left alone. -/

namespace Sys2Proof.Machine

theorem Memory.wfFrom_cons (lo a : Nat) (v : Byte) (rest : List Host.Cell) :
    Memory.wfFrom lo ((a, v) :: rest) = true ↔
      lo ≤ a ∧ a < 65536 ∧ v ≠ Memory.fill ∧ Memory.wfFrom (a + 1) rest = true := by
  simp [Memory.wfFrom, and_assoc]

theorem Memory.wfFrom_mono {lo lo' : Nat} {m : List Host.Cell} (h : Memory.wfFrom lo m = true) (hle : lo' ≤ lo) :
    Memory.wfFrom lo' m = true := by
  cases m with
  | nil => rfl
  | cons c rest =>
    obtain ⟨a, v⟩ := c
    rw [Memory.wfFrom_cons] at h ⊢
    exact ⟨le_trans hle h.1, h.2⟩

/-- An address below every listed one reads as `fill`. -/
theorem Memory.read_below {lo : Nat} {m : List Host.Cell} (h : Memory.wfFrom lo m = true) {x : Nat} (hx : x < lo) :
    Memory.read m x = Memory.fill := by
  induction m generalizing lo with
  | nil => rfl
  | cons c rest ih =>
    obtain ⟨a, v⟩ := c
    rw [Memory.wfFrom_cons] at h
    have hne : x ≠ a := by omega
    simp only [Memory.read, hne, if_false]
    exact ih h.2.2.2 (by omega)

/-- A write keeps the canonical form. -/
theorem Memory.write_wfFrom {lo : Nat} {m : List Host.Cell} (h : Memory.wfFrom lo m = true) {a : Nat} (v : Byte)
    (hlo : lo ≤ a) (ha : a < 65536) : Memory.wfFrom lo (Memory.write m a v) = true := by
  induction m generalizing lo with
  | nil =>
    by_cases hv : v = Memory.fill
    · simp [Memory.write, hv, Memory.wfFrom]
    · simp [Memory.write, hv, Memory.wfFrom, hlo, ha]
  | cons c rest ih =>
    obtain ⟨b, w⟩ := c
    rw [Memory.wfFrom_cons] at h
    obtain ⟨h1, h2, h3, h4⟩ := h
    rcases lt_trichotomy a b with hab | hab | hab
    · by_cases hv : v = Memory.fill
      · simp only [Memory.write, hab, if_true, hv]
        rw [Memory.wfFrom_cons]
        exact ⟨h1, h2, h3, h4⟩
      · simp only [Memory.write, hab, if_true, hv, if_false]
        rw [Memory.wfFrom_cons, Memory.wfFrom_cons]
        exact ⟨hlo, ha, hv, by omega, h2, h3, h4⟩
    · subst hab
      by_cases hv : v = Memory.fill
      · simp only [Memory.write, lt_irrefl, if_false, if_true, hv]
        exact Memory.wfFrom_mono h4 (by omega)
      · simp only [Memory.write, lt_irrefl, if_false, if_true, hv]
        rw [Memory.wfFrom_cons]
        exact ⟨h1, h2, hv, h4⟩
    · have hn : ¬ a < b := by omega
      have hne : a ≠ b := by omega
      simp only [Memory.write, hn, if_false, hne]
      rw [Memory.wfFrom_cons]
      exact ⟨h1, h2, h3, ih h4 (by omega)⟩

theorem Memory.write_wf {m : List Host.Cell} (h : Memory.wf m = true) {a : Nat} (v : Byte) (ha : a < 65536) :
    Memory.wf (Memory.write m a v) = true :=
  Memory.write_wfFrom h v (Nat.zero_le a) ha

theorem Memory.read_write_from {lo : Nat} {m : List Host.Cell} (h : Memory.wfFrom lo m = true) (a x : Nat) (v : Byte) :
    Memory.read (Memory.write m a v) x = if x = a then v else Memory.read m x := by
  induction m generalizing lo with
  | nil =>
    by_cases hv : v = Memory.fill <;> by_cases hx : x = a <;> simp [Memory.write, Memory.read, hv, hx]
  | cons c rest ih =>
    obtain ⟨b, w⟩ := c
    have hc := (Memory.wfFrom_cons _ _ _ _).1 h
    rcases lt_trichotomy a b with hab | hab | hab
    · by_cases hv : v = Memory.fill
      · simp only [Memory.write, hab, if_true, hv]
        by_cases hx : x = a
        · subst hx
          rw [if_pos rfl]
          exact Memory.read_below (lo := b) ((Memory.wfFrom_cons _ _ _ _).2 ⟨le_refl b, hc.2⟩) hab
        · rw [if_neg hx]
      · simp only [Memory.write, hab, if_true, hv, if_false]
        rfl
    · subst hab
      by_cases hv : v = Memory.fill
      · simp only [Memory.write, lt_irrefl, if_false, if_true, hv]
        by_cases hx : x = a
        · subst hx
          rw [if_pos rfl]
          exact Memory.read_below hc.2.2.2 (by omega)
        · simp [Memory.read, hx]
      · simp only [Memory.write, lt_irrefl, if_false, if_true, hv]
        by_cases hx : x = a <;> simp [Memory.read, hx]
    · have hn : ¬ a < b := by omega
      have hne : a ≠ b := by omega
      simp only [Memory.write, hn, if_false, hne, Memory.read]
      by_cases hx : x = b
      · have hxa : x ≠ a := by omega
        simp [hx, hne.symm]
      · simp only [hx, if_false]
        exact ih hc.2.2.2

/-- A byte written is the byte read; every other byte is as before. -/
theorem Memory.read_write {m : List Host.Cell} (h : Memory.wf m = true) (a x : Nat) (v : Byte) :
    Memory.read (Memory.write m a v) x = if x = a then v else Memory.read m x :=
  Memory.read_write_from h a x v

/-- Two memories in canonical form that read the same everywhere are the same list. -/
theorem Memory.ext_of_read {lo : Nat} {m n : List Host.Cell} (hm : Memory.wfFrom lo m = true)
    (hn : Memory.wfFrom lo n = true) (h : ∀ x, Memory.read m x = Memory.read n x) : m = n := by
  induction m generalizing lo n with
  | nil =>
    cases n with
    | nil => rfl
    | cons c rest =>
      obtain ⟨a, v⟩ := c
      have := h a
      simp [Memory.read] at this
      exact absurd this.symm ((Memory.wfFrom_cons _ _ _ _).1 hn).2.2.1
  | cons c rest ih =>
    obtain ⟨a, v⟩ := c
    have hm' := (Memory.wfFrom_cons _ _ _ _).1 hm
    cases n with
    | nil =>
      have := h a
      simp [Memory.read] at this
      exact absurd this hm'.2.2.1
    | cons d rest' =>
      obtain ⟨b, w⟩ := d
      have hn' := (Memory.wfFrom_cons _ _ _ _).1 hn
      have hab : a = b := by
        rcases lt_trichotomy a b with hlt | heq | hlt
        · have hr := h a
          rw [Memory.read_below (lo := b) ((Memory.wfFrom_cons _ _ _ _).2 ⟨le_refl b, hn'.2⟩) hlt] at hr
          simp [Memory.read] at hr
          exact absurd hr hm'.2.2.1
        · exact heq
        · have hr := h b
          rw [Memory.read_below (lo := a) ((Memory.wfFrom_cons _ _ _ _).2 ⟨le_refl a, hm'.2⟩) hlt] at hr
          simp [Memory.read] at hr
          exact absurd hr.symm hn'.2.2.1
      subst hab
      have hv : v = w := by simpa [Memory.read] using h a
      subst hv
      have hrest : rest = rest' := by
        refine ih hm'.2.2.2 hn'.2.2.2 fun x => ?_
        by_cases hx : x = a
        · subst hx
          rw [Memory.read_below hm'.2.2.2 (by omega), Memory.read_below hn'.2.2.2 (by omega)]
        · simpa [Memory.read, hx] using h x
      rw [hrest]

/-- The memory after reset has the canonical form. -/
theorem State.reset_mem_wf : Memory.wf State.reset.mem = true := rfl

end Sys2Proof.Machine
end

