-- ==== Sys2Proof/Laws/Ops.lean ====
section
/-! SUPPORT. One lemma for each shared operation that says once everything it can do: the store, the stack, the call
and the return, the operand forms, the boundary, and what a step can be. -/

namespace Sys2Proof.Machine

/-! ### Stores -/

/-- A store changes memory only. -/
theorem State.write8_eq (s : State) (a : Word) (v : Byte) :
    s.write8 a v = { s with mem := (s.write8 a v).mem } := by
  unfold State.write8
  split <;> rfl

@[simp] theorem State.write8_regs (s : State) (a : Word) (v : Byte) : (s.write8 a v).regs = s.regs := by
  rw [State.write8_eq]
@[simp] theorem State.write8_flags (s : State) (a : Word) (v : Byte) : (s.write8 a v).flags = s.flags := by
  rw [State.write8_eq]
@[simp] theorem State.write8_sp (s : State) (a : Word) (v : Byte) : (s.write8 a v).sp = s.sp := by
  rw [State.write8_eq]
@[simp] theorem State.write8_pc (s : State) (a : Word) (v : Byte) : (s.write8 a v).pc = s.pc := by
  rw [State.write8_eq]
@[simp] theorem State.write8_ctl (s : State) (a : Word) (v : Byte) : (s.write8 a v).ctl = s.ctl := by
  rw [State.write8_eq]
@[simp] theorem State.write8_ext (s : State) (a : Word) (v : Byte) : (s.write8 a v).ext = s.ext := by
  rw [State.write8_eq]
@[simp] theorem State.write8_platform (s : State) (a : Word) (v : Byte) : (s.write8 a v).platform = s.platform := by
  rw [State.write8_eq]
@[simp] theorem State.write8_io (s : State) (a : Word) (v : Byte) : (s.write8 a v).io = s.io := by
  rw [State.write8_eq]
@[simp] theorem State.write8_env (s : State) (a : Word) (v : Byte) : (s.write8 a v).env = s.env := by
  rw [State.write8_eq]
@[simp] theorem State.write8_tick (s : State) (a : Word) (v : Byte) : (s.write8 a v).tick = s.tick := by
  rw [State.write8_eq]
@[simp] theorem State.write8_kindAt (s : State) (a x : Word) (v : Byte) : (s.write8 a v).kindAt x = s.kindAt x := by
  simp [State.kindAt]

/-- A store keeps the canonical form of memory. -/
theorem State.write8_wf {s : State} (h : Memory.wf s.mem = true) (a : Word) (v : Byte) :
    Memory.wf (s.write8 a v).mem = true := by
  unfold State.write8
  split
  · exact Memory.write_wf h v a.isLt
  · exact h

/-- What a byte reads as after a store: the byte stored, if it is that address and RAM; else as before. -/
theorem State.readAs_write8 {s : State} (h : Memory.wf s.mem = true) (phase : ReadPhase) (a x : Word) (v : Byte) :
    (s.write8 a v).readAs phase x = if x = a ∧ s.kindAt a = .ram then v else s.readAs phase x := by
  unfold State.readAs
  rw [State.write8_kindAt, State.write8_tick]
  cases hk : s.kindAt x with
  | absent =>
    have : ¬ (x = a ∧ s.kindAt a = .ram) := by
      rintro ⟨rfl, hr⟩
      rw [hk] at hr
      exact MemKind.noConfusion hr
    rw [if_neg this]
  | ram =>
    unfold State.write8
    cases ha : s.kindAt a with
    | ram =>
      show Memory.read (Memory.write s.mem a.toNat v) x.toNat = _
      rw [Memory.read_write h]
      simp only [and_true, BitVec.toNat_inj]
    | rom => simp
    | absent => simp
  | rom =>
    unfold State.write8
    cases ha : s.kindAt a with
    | ram =>
      have hne : x ≠ a := by
        rintro rfl
        rw [hk] at ha
        exact MemKind.noConfusion ha
      show Memory.read (Memory.write s.mem a.toNat v) x.toNat = _
      rw [Memory.read_write h]
      simp [hne, BitVec.toNat_inj]
    | rom => simp
    | absent => simp

theorem State.read8_write8 {s : State} (h : Memory.wf s.mem = true) (a x : Word) (v : Byte) :
    (s.write8 a v).read8 x = if x = a ∧ s.kindAt a = .ram then v else s.read8 x :=
  State.readAs_write8 h .data a x v

/-- The same for a fetch: a store is seen by the very next one (R62). -/
theorem State.fetch8_write8 {s : State} (h : Memory.wf s.mem = true) (a x : Word) (v : Byte) :
    (s.write8 a v).fetch8 x = if x = a ∧ s.kindAt a = .ram then v else s.fetch8 x :=
  State.readAs_write8 h .fetch a x v

/-- A data read depends on memory, the memory map and the step's number alone. -/
theorem State.read8_congr {s t : State} (hm : t.mem = s.mem) (hp : t.platform = s.platform) (ht : t.tick = s.tick)
    (x : Word) : t.read8 x = s.read8 x := by
  simp [State.read8, State.readAs, State.kindAt, hm, hp, ht]

/-! ### The DMA agent's turns -/

/-- The byte that some DMA writes leave at an address: the last of them there, if there is one. -/
def lastDma : List DmaWrite → Word → Option Byte
  | [], _ => none
  | w :: rest, x => (lastDma rest x).or (if w.addr = x then some w.byte else none)

/-- No byte is left at an address exactly when no write goes there. -/
theorem lastDma_none (ws : List DmaWrite) (x : Word) : lastDma ws x = none ↔ ¬ ∃ w ∈ ws, w.addr = x := by
  induction ws with
  | nil => simp [lastDma]
  | cons w rest ih =>
    rw [lastDma, Option.or_eq_none_iff, ih]
    by_cases hw : w.addr = x <;> simp [hw]

/-- DMA writes change memory only. -/
theorem State.applyDma_eq (s : State) (ws : List DmaWrite) :
    s.applyDma ws = { s with mem := (s.applyDma ws).mem } := by
  induction ws generalizing s with
  | nil => rfl
  | cons w rest ih =>
    show (s.write8 w.addr w.byte).applyDma rest = { s with mem := ((s.write8 w.addr w.byte).applyDma rest).mem }
    rw [ih]
    simp

/-- DMA writes keep the canonical form of memory. -/
theorem State.applyDma_wf {s : State} (h : Memory.wf s.mem = true) (ws : List DmaWrite) :
    Memory.wf (s.applyDma ws).mem = true := by
  induction ws generalizing s with
  | nil => exact h
  | cons w rest ih => exact ih (State.write8_wf h _ _)

@[simp] theorem State.applyDma_kindAt (s : State) (ws : List DmaWrite) (x : Word) :
    (s.applyDma ws).kindAt x = s.kindAt x := by
  rw [State.applyDma_eq]
  rfl

/-- What a byte reads as after DMA writes: the last byte written there, if there is one and it is RAM; else as before. -/
theorem State.readAs_applyDma {s : State} (h : Memory.wf s.mem = true) (ws : List DmaWrite) (phase : ReadPhase)
    (x : Word) :
    (s.applyDma ws).readAs phase x =
      if s.kindAt x = .ram then (lastDma ws x).getD (s.readAs phase x) else s.readAs phase x := by
  induction ws generalizing s with
  | nil => simp [State.applyDma, lastDma]
  | cons w rest ih =>
    show ((s.write8 w.addr w.byte).applyDma rest).readAs phase x = _
    rw [ih (State.write8_wf h _ _), State.readAs_write8 h, State.write8_kindAt]
    rw [lastDma]
    by_cases hk : s.kindAt x = .ram
    · simp only [hk, if_true]
      cases hl : lastDma rest x with
      | some v => simp
      | none =>
        by_cases hw : w.addr = x
        · subst hw
          simp [hk]
        · simp [hw, Ne.symm hw]
    · have : ¬ (x = w.addr ∧ s.kindAt w.addr = .ram) := fun e => hk (e.1 ▸ e.2)
      simp only [hk, this, if_false]

/-- A turn of the DMA agent changes memory only. -/
theorem State.dmaTurn_eq (s : State) (g : BusGap) : s.dmaTurn g = { s with mem := (s.dmaTurn g).mem } :=
  State.applyDma_eq s _

@[simp] theorem State.dmaTurn_regs (s : State) (g : BusGap) : (s.dmaTurn g).regs = s.regs := by
  rw [State.dmaTurn_eq]
@[simp] theorem State.dmaTurn_flags (s : State) (g : BusGap) : (s.dmaTurn g).flags = s.flags := by
  rw [State.dmaTurn_eq]
@[simp] theorem State.dmaTurn_sp (s : State) (g : BusGap) : (s.dmaTurn g).sp = s.sp := by
  rw [State.dmaTurn_eq]
@[simp] theorem State.dmaTurn_pc (s : State) (g : BusGap) : (s.dmaTurn g).pc = s.pc := by
  rw [State.dmaTurn_eq]
@[simp] theorem State.dmaTurn_ctl (s : State) (g : BusGap) : (s.dmaTurn g).ctl = s.ctl := by
  rw [State.dmaTurn_eq]
@[simp] theorem State.dmaTurn_ext (s : State) (g : BusGap) : (s.dmaTurn g).ext = s.ext := by
  rw [State.dmaTurn_eq]
@[simp] theorem State.dmaTurn_platform (s : State) (g : BusGap) : (s.dmaTurn g).platform = s.platform := by
  rw [State.dmaTurn_eq]
@[simp] theorem State.dmaTurn_io (s : State) (g : BusGap) : (s.dmaTurn g).io = s.io := by
  rw [State.dmaTurn_eq]
@[simp] theorem State.dmaTurn_env (s : State) (g : BusGap) : (s.dmaTurn g).env = s.env := by
  rw [State.dmaTurn_eq]
@[simp] theorem State.dmaTurn_tick (s : State) (g : BusGap) : (s.dmaTurn g).tick = s.tick := by
  rw [State.dmaTurn_eq]
@[simp] theorem State.dmaTurn_kindAt (s : State) (g : BusGap) (x : Word) : (s.dmaTurn g).kindAt x = s.kindAt x :=
  State.applyDma_kindAt s _ x
@[simp] theorem State.dmaTurn_now (s : State) (g : BusGap) : (s.dmaTurn g).now = s.now := by
  simp [State.now]
@[simp] theorem State.dmaTurn_dmaAt (s : State) (g k : BusGap) : (s.dmaTurn g).dmaAt k = s.dmaAt k := by
  simp [State.dmaAt]
@[simp] theorem State.dmaTurn_variant (s : State) (g : BusGap) : (s.dmaTurn g).variant = s.variant := by
  simp [State.variant]

/-- With no DMA write at its gap a turn does nothing. -/
theorem State.dmaTurn_none {s : State} {g : BusGap} (h : s.dmaAt g = []) : s.dmaTurn g = s := by
  unfold State.dmaTurn
  rw [h]
  rfl

theorem State.dmaTurn_wf {s : State} (h : Memory.wf s.mem = true) (g : BusGap) : Memory.wf (s.dmaTurn g).mem = true :=
  State.applyDma_wf h _

/-- What a byte reads as after a turn. -/
theorem State.readAs_dmaTurn {s : State} (h : Memory.wf s.mem = true) (g : BusGap) (phase : ReadPhase) (x : Word) :
    (s.dmaTurn g).readAs phase x =
      if s.kindAt x = .ram then (lastDma (s.dmaAt g) x).getD (s.readAs phase x) else s.readAs phase x :=
  State.readAs_applyDma h _ phase x

theorem State.read8_dmaTurn {s : State} (h : Memory.wf s.mem = true) (g : BusGap) (x : Word) :
    (s.dmaTurn g).read8 x =
      if s.kindAt x = .ram then (lastDma (s.dmaAt g) x).getD (s.read8 x) else s.read8 x :=
  State.readAs_dmaTurn h g .data x

/-- A store before a turn of the DMA agent: its byte stands unless the turn writes there; every other byte is as the
turn leaves it. -/
theorem State.readAs_dmaTurn_write8 {s : State} (h : Memory.wf s.mem = true) (g : BusGap) (phase : ReadPhase)
    (a x : Word) (v : Byte) :
    ((s.write8 a v).dmaTurn g).readAs phase x =
      if x = a ∧ s.kindAt a = .ram ∧ lastDma (s.dmaAt g) a = none then v else (s.dmaTurn g).readAs phase x := by
  have hd : (s.write8 a v).dmaAt g = s.dmaAt g := by simp [State.dmaAt, State.now]
  rw [State.readAs_dmaTurn (State.write8_wf h _ _), State.readAs_dmaTurn h, hd, State.write8_kindAt,
    State.readAs_write8 h]
  by_cases hx : x = a
  · subst hx
    by_cases hk : s.kindAt x = .ram
    · cases hl : lastDma (s.dmaAt g) x <;> simp [hk]
    · simp [hk]
  · simp [hx]

theorem State.read8_dmaTurn_write8 {s : State} (h : Memory.wf s.mem = true) (g : BusGap) (a x : Word) (v : Byte) :
    ((s.write8 a v).dmaTurn g).read8 x =
      if x = a ∧ s.kindAt a = .ram ∧ lastDma (s.dmaAt g) a = none then v else (s.dmaTurn g).read8 x :=
  State.readAs_dmaTurn_write8 h g .data a x v

/-- A sixteen-bit store changes memory only. -/
theorem State.write16_eq (s : State) (a : Word) (v : Word) :
    s.write16 a v = { s with mem := (s.write16 a v).mem } := by
  unfold State.write16
  rw [State.write8_eq, State.dmaTurn_eq, State.write8_eq s]

theorem State.write16_wf {s : State} (h : Memory.wf s.mem = true) (a : Word) (v : Word) :
    Memory.wf (s.write16 a v).mem = true :=
  State.write8_wf (State.dmaTurn_wf (State.write8_wf h _ _) _) _ _

/-- A sixteen-bit store: the high byte is last; the low byte stands unless the DMA agent's turn between the two writes
there; every other byte is as that turn leaves it. -/
theorem State.readAs_write16 {s : State} (h : Memory.wf s.mem = true) (phase : ReadPhase) (a v x : Word) :
    (s.write16 a v).readAs phase x =
      if x = a + 1 ∧ s.kindAt x = .ram then hiByte v
      else if x = a ∧ s.kindAt x = .ram ∧ lastDma (s.dmaAt .data2) a = none then loByte v
      else (s.dmaTurn .data2).readAs phase x := by
  unfold State.write16
  rw [State.readAs_write8 (State.dmaTurn_wf (State.write8_wf h _ _) _), State.readAs_dmaTurn_write8 h]
  simp only [State.dmaTurn_kindAt, State.write8_kindAt]
  by_cases e1 : x = a + 1
  · have hn : a + 1 ≠ a := by bv_omega
    simp only [e1, hn, false_and, if_false]
  · by_cases e2 : x = a
    · have hn : a ≠ a + 1 := by bv_omega
      simp only [e2, hn, true_and, false_and, if_false]
    · simp only [e1, e2, false_and, if_false]

/-! ### The stack -/

/-- A push as its two stores, with the stack pointer moved at once. -/
theorem State.push16_stores (s : State) (v : Word) :
    s.push16 v = { ((s.write8 (s.sp - 1) (hiByte v)).dmaTurn .data2).write8 (s.sp - 2) (loByte v) with sp := s.sp - 2 } := by
  have h2 : s.sp - 1 - 1 = s.sp - 2 := by bv_omega
  have hw : ∀ (t : State) (q a : Word) (b : Byte), State.write8 { t with sp := q } a b = { t.write8 a b with sp := q } := by
    intro t q a b
    have hk : ({ t with sp := q } : State).kindAt a = t.kindAt a := rfl
    unfold State.write8
    rw [hk]
    split <;> rfl
  have hd : ∀ (t : State) (q : Word) (ws : List DmaWrite),
      State.applyDma { t with sp := q } ws = { t.applyDma ws with sp := q } := by
    intro t q ws
    induction ws generalizing t with
    | nil => rfl
    | cons w rest ih =>
      show State.applyDma (State.write8 { t with sp := q } w.addr w.byte) rest = _
      rw [hw, ih]
      rfl
  have ht : ∀ (t : State) (q : Word) (g : BusGap),
      State.dmaTurn { t with sp := q } g = { t.dmaTurn g with sp := q } := fun t q g => hd t q _
  have h1 : State.dmaTurn (State.write8 { s with sp := s.sp - 1 } (s.sp - 1) (hiByte v)) .data2 =
      { (s.write8 (s.sp - 1) (hiByte v)).dmaTurn .data2 with sp := s.sp - 1 } := by
    rw [hw, ht]
  have h3 : s.push16 v = State.write8 { State.dmaTurn (State.write8 { s with sp := s.sp - 1 } (s.sp - 1) (hiByte v)) .data2
      with sp := (State.dmaTurn (State.write8 { s with sp := s.sp - 1 } (s.sp - 1) (hiByte v)) .data2).sp - 1 }
      ((State.dmaTurn (State.write8 { s with sp := s.sp - 1 } (s.sp - 1) (hiByte v)) .data2).sp - 1) (loByte v) := rfl
  rw [h3, h1]
  exact (hw ((s.write8 (s.sp - 1) (hiByte v)).dmaTurn .data2) _ _ _).trans (by simp only [h2])

/-- A push changes memory, and SP by two. -/
theorem State.push16_eq (s : State) (v : Word) :
    s.push16 v = { s with mem := (s.push16 v).mem, sp := s.sp - 2 } := by
  rw [State.push16_stores, State.write8_eq, State.dmaTurn_eq, State.write8_eq s]

@[simp] theorem State.push16_regs (s : State) (v : Word) : (s.push16 v).regs = s.regs := by
  rw [State.push16_eq]
@[simp] theorem State.push16_flags (s : State) (v : Word) : (s.push16 v).flags = s.flags := by
  rw [State.push16_eq]
@[simp] theorem State.push16_sp (s : State) (v : Word) : (s.push16 v).sp = s.sp - 2 := by
  rw [State.push16_eq]
@[simp] theorem State.push16_pc (s : State) (v : Word) : (s.push16 v).pc = s.pc := by
  rw [State.push16_eq]
@[simp] theorem State.push16_ctl (s : State) (v : Word) : (s.push16 v).ctl = s.ctl := by
  rw [State.push16_eq]
@[simp] theorem State.push16_ext (s : State) (v : Word) : (s.push16 v).ext = s.ext := by
  rw [State.push16_eq]
@[simp] theorem State.push16_platform (s : State) (v : Word) : (s.push16 v).platform = s.platform := by
  rw [State.push16_eq]
@[simp] theorem State.push16_io (s : State) (v : Word) : (s.push16 v).io = s.io := by
  rw [State.push16_eq]
@[simp] theorem State.push16_env (s : State) (v : Word) : (s.push16 v).env = s.env := by
  rw [State.push16_eq]
@[simp] theorem State.push16_tick (s : State) (v : Word) : (s.push16 v).tick = s.tick := by
  rw [State.push16_eq]
@[simp] theorem State.push16_kindAt (s : State) (v x : Word) : (s.push16 v).kindAt x = s.kindAt x := by
  simp [State.kindAt]

theorem State.push16_wf {s : State} (h : Memory.wf s.mem = true) (v : Word) :
    Memory.wf (s.push16 v).mem = true := by
  rw [State.push16_stores]
  exact State.write8_wf (State.dmaTurn_wf (State.write8_wf h _ _) _) _ _

/-- A push stores the low byte last, at the new stack pointer; the high byte above it stands unless the DMA agent's turn
between the two writes there; every other byte is as that turn leaves it. -/
theorem State.read8_push16 {s : State} (h : Memory.wf s.mem = true) (v x : Word) :
    (s.push16 v).read8 x =
      if x = s.sp - 2 ∧ s.kindAt x = .ram then loByte v
      else if x = s.sp - 1 ∧ s.kindAt x = .ram ∧ lastDma (s.dmaAt .data2) (s.sp - 1) = none then hiByte v
      else (s.dmaTurn .data2).read8 x := by
  rw [State.push16_stores]
  have hr : ∀ (t : State) (q : Word), State.read8 { t with sp := q } x = t.read8 x := fun _ _ => rfl
  rw [hr, State.read8_write8 (State.dmaTurn_wf (State.write8_wf h _ _) _), State.read8_dmaTurn_write8 h]
  simp only [State.dmaTurn_kindAt, State.write8_kindAt]
  by_cases e2 : x = s.sp - 2
  · have hn : s.sp - 2 ≠ s.sp - 1 := by bv_omega
    simp only [e2, hn, false_and, if_false]
  · by_cases e1 : x = s.sp - 1
    · have hn : s.sp - 1 ≠ s.sp - 2 := by bv_omega
      simp only [e1, hn, true_and, false_and, if_false]
    · simp only [e1, e2, false_and, if_false]

/-- A pop moves SP by two, with the DMA agent's turn between its two reads. -/
theorem State.drop16_eq (s : State) : s.drop16 = { s with mem := (s.dmaTurn .data2).mem, sp := s.sp + 2 } := by
  unfold State.drop16
  rw [State.dmaTurn_eq]

@[simp] theorem State.drop16_mem (s : State) : s.drop16.mem = (s.dmaTurn .data2).mem := rfl
@[simp] theorem State.drop16_regs (s : State) : s.drop16.regs = s.regs := by
  rw [State.drop16_eq]
@[simp] theorem State.drop16_flags (s : State) : s.drop16.flags = s.flags := by
  rw [State.drop16_eq]
@[simp] theorem State.drop16_sp (s : State) : s.drop16.sp = s.sp + 2 := by
  rw [State.drop16_eq]
@[simp] theorem State.drop16_pc (s : State) : s.drop16.pc = s.pc := by
  rw [State.drop16_eq]
@[simp] theorem State.drop16_ctl (s : State) : s.drop16.ctl = s.ctl := by
  rw [State.drop16_eq]
@[simp] theorem State.drop16_ext (s : State) : s.drop16.ext = s.ext := by
  rw [State.drop16_eq]
@[simp] theorem State.drop16_platform (s : State) : s.drop16.platform = s.platform := by
  rw [State.drop16_eq]
@[simp] theorem State.drop16_io (s : State) : s.drop16.io = s.io := by
  rw [State.drop16_eq]
@[simp] theorem State.drop16_env (s : State) : s.drop16.env = s.env := by
  rw [State.drop16_eq]
@[simp] theorem State.drop16_tick (s : State) : s.drop16.tick = s.tick := by
  rw [State.drop16_eq]

/-! ### Fetching -/

theorem State.beforeByte_eq (s : State) (k : Nat) : s.beforeByte k = { s with mem := (s.beforeByte k).mem } := by
  match k with
  | 0 => rfl
  | 1 => exact State.dmaTurn_eq s _
  | _ + 2 =>
    show (s.dmaTurn .secondByte).dmaTurn .thirdByte =
      { s with mem := ((s.dmaTurn .secondByte).dmaTurn .thirdByte).mem }
    rw [State.dmaTurn_eq, State.dmaTurn_eq s]

/-- Fetching changes memory (the DMA agent's turns) and pc only. -/
theorem State.afterFetch_eq (s : State) (len : Nat) :
    s.afterFetch len = { s with mem := (s.afterFetch len).mem, pc := s.pc + BitVec.ofNat 16 len } := by
  unfold State.afterFetch State.advance
  rw [State.dmaTurn_eq, State.beforeByte_eq]

@[simp] theorem State.afterFetch_regs (s : State) (len : Nat) : (s.afterFetch len).regs = s.regs := by
  rw [State.afterFetch_eq]
@[simp] theorem State.afterFetch_flags (s : State) (len : Nat) : (s.afterFetch len).flags = s.flags := by
  rw [State.afterFetch_eq]
@[simp] theorem State.afterFetch_sp (s : State) (len : Nat) : (s.afterFetch len).sp = s.sp := by
  rw [State.afterFetch_eq]
@[simp] theorem State.afterFetch_ctl (s : State) (len : Nat) : (s.afterFetch len).ctl = s.ctl := by
  rw [State.afterFetch_eq]
@[simp] theorem State.afterFetch_ext (s : State) (len : Nat) : (s.afterFetch len).ext = s.ext := by
  rw [State.afterFetch_eq]
@[simp] theorem State.afterFetch_platform (s : State) (len : Nat) : (s.afterFetch len).platform = s.platform := by
  rw [State.afterFetch_eq]
@[simp] theorem State.afterFetch_io (s : State) (len : Nat) : (s.afterFetch len).io = s.io := by
  rw [State.afterFetch_eq]
@[simp] theorem State.afterFetch_env (s : State) (len : Nat) : (s.afterFetch len).env = s.env := by
  rw [State.afterFetch_eq]
@[simp] theorem State.afterFetch_tick (s : State) (len : Nat) : (s.afterFetch len).tick = s.tick := by
  rw [State.afterFetch_eq]
@[simp] theorem State.afterFetch_pc (s : State) (len : Nat) : (s.afterFetch len).pc = s.pc + BitVec.ofNat 16 len := by
  rw [State.afterFetch_eq]
@[simp] theorem State.afterFetch_variant (s : State) (len : Nat) : (s.afterFetch len).variant = s.variant := by
  simp [State.variant]

theorem State.beforeByte_wf {s : State} (h : Memory.wf s.mem = true) (k : Nat) : Memory.wf (s.beforeByte k).mem = true := by
  match k with
  | 0 => exact h
  | 1 => exact State.dmaTurn_wf h _
  | _ + 2 => exact State.dmaTurn_wf (State.dmaTurn_wf h _) _

theorem State.afterFetch_wf {s : State} (h : Memory.wf s.mem = true) (len : Nat) :
    Memory.wf (s.afterFetch len).mem = true :=
  State.dmaTurn_wf (State.beforeByte_wf h _) _

/-! ### Calls and returns -/

/-- A call pushes pc and goes to its target. -/
theorem State.callTo_eq (s : State) (w : Word) : s.callTo w = { s.push16 s.pc with pc := w } := rfl

/-- A return takes pc from the stack, with the DMA agent's turn between its two reads. -/
theorem State.returnFrom_eq (s : State) :
    s.returnFrom = { s with mem := (s.dmaTurn .data2).mem, sp := s.sp + 2, pc := s.top16 } := by
  unfold State.returnFrom State.jump
  rw [State.drop16_eq]

/-! ### Operand forms -/

/-- Writing an operand changes the registers or memory only. -/
theorem State.writeOperand_eq (s : State) (o : Operand8) (v : Byte) :
    s.writeOperand o v =
      { s with regs := (s.writeOperand o v).regs, mem := (s.writeOperand o v).mem } := by
  cases o with
  | m =>
    show s.write8 s.regs.hl v = _
    rw [State.write8_eq]
    simp [State.writeOperand]
  | _ => rfl

/-- Writing an operand other than M leaves memory alone. -/
theorem State.writeOperand_mem {s : State} {o : Operand8} (h : o ≠ .m) (v : Byte) :
    (s.writeOperand o v).mem = s.mem := by
  cases o <;> first | rfl | exact absurd rfl h

/-- A register written reads back; every other register is as before. -/
theorem State.readOperand_writeOperand {s : State} {o x : Operand8} (ho : o ≠ .m) (hx : x ≠ .m) (v : Byte) :
    (s.writeOperand o v).readOperand x = if x = o then v else s.readOperand x := by
  cases o <;> cases x <;> first | rfl | exact absurd rfl ho | exact absurd rfl hx

theorem State.writeOperand_wf {s : State} (h : Memory.wf s.mem = true) (o : Operand8) (v : Byte) :
    Memory.wf (s.writeOperand o v).mem = true := by
  cases o with
  | m => exact State.write8_wf h _ _
  | _ => exact h

/-- INR and DCR on an operand change the registers or memory only. -/
theorem State.modifyOperand_eq (s : State) (o : Operand8) (f : Byte → Byte) :
    s.modifyOperand o f = { s with regs := (s.modifyOperand o f).regs, mem := (s.modifyOperand o f).mem } := by
  cases o with
  | m =>
    exact (State.write8_eq (s.dmaTurn .data2) s.regs.hl (f (s.read8 s.regs.hl))).trans (by simp [State.modifyOperand])
  | _ => rfl

/-- On a register they are a plain write. -/
theorem State.modifyOperand_register {o : Operand8} (h : o ≠ .m) (s : State) (f : Byte → Byte) :
    s.modifyOperand o f = s.writeOperand o (f (s.readOperand o)) := by
  cases o <;> first | rfl | exact absurd rfl h

theorem State.modifyOperand_wf {s : State} (h : Memory.wf s.mem = true) (o : Operand8) (f : Byte → Byte) :
    Memory.wf (s.modifyOperand o f).mem = true := by
  cases o with
  | m => exact State.write8_wf (State.dmaTurn_wf h _) _ _
  | _ => exact State.writeOperand_wf h _ _

/-- Writing a pair changes the registers or SP only. -/
theorem State.writePair_eq (s : State) (rp : RegPair) (v : Word) :
    s.writePair rp v = { s with regs := (s.writePair rp v).regs, sp := (s.writePair rp v).sp } := by
  cases rp <;> rfl

/-- Writing a stack pair changes the registers or the flags only. -/
theorem State.writeStackPair_eq (s : State) (rp : StackPair) (v : Word) :
    s.writeStackPair rp v =
      { s with regs := (s.writeStackPair rp v).regs, flags := (s.writeStackPair rp v).flags } := by
  cases rp <;> rfl

theorem wordOf_toNat (h l : Byte) : (wordOf h l).toNat = 256 * h.toNat + l.toNat := by
  have hl := l.isLt
  show (h ++ l : BitVec (8 + 8)).toNat = _
  rw [BitVec.toNat_append, ← Nat.shiftLeft_add_eq_or_of_lt hl, Nat.shiftLeft_eq]
  omega

theorem hiByte_toNat (w : Word) : (hiByte w).toNat = w.toNat / 256 := by
  have hw := w.isLt
  show (w.extractLsb' 8 8).toNat = _
  rw [BitVec.extractLsb'_toNat, Nat.shiftRight_eq_div_pow]
  omega

theorem loByte_toNat (w : Word) : (loByte w).toNat = w.toNat % 256 := by
  show (w.extractLsb' 0 8).toNat = _
  rw [BitVec.extractLsb'_toNat, Nat.shiftRight_eq_div_pow]
  simp

/-- A word from its bytes, as a number. -/
theorem wordOf_eq (h l : Byte) : wordOf h l = BitVec.ofNat 16 (256 * h.toNat + l.toNat) := by
  apply BitVec.eq_of_toNat_eq
  have := h.isLt
  have := l.isLt
  rw [wordOf_toNat, BitVec.toNat_ofNat]
  omega

theorem hiByte_eq (w : Word) : hiByte w = BitVec.ofNat 8 (w.toNat / 256) := by
  apply BitVec.eq_of_toNat_eq
  have := w.isLt
  rw [hiByte_toNat, BitVec.toNat_ofNat]
  omega

theorem loByte_eq (w : Word) : loByte w = BitVec.ofNat 8 (w.toNat % 256) := by
  apply BitVec.eq_of_toNat_eq
  rw [loByte_toNat, BitVec.toNat_ofNat]
  omega

@[simp] theorem hiByte_wordOf (h l : Byte) : hiByte (wordOf h l) = h := by
  apply BitVec.eq_of_toNat_eq
  have := h.isLt
  have := l.isLt
  rw [hiByte_toNat, wordOf_toNat]
  omega

@[simp] theorem loByte_wordOf (h l : Byte) : loByte (wordOf h l) = l := by
  apply BitVec.eq_of_toNat_eq
  have := l.isLt
  rw [loByte_toNat, wordOf_toNat]
  omega

@[simp] theorem wordOf_hiByte_loByte (w : Word) : wordOf (hiByte w) (loByte w) = w := by
  apply BitVec.eq_of_toNat_eq
  rw [wordOf_toNat, hiByte_toNat, loByte_toNat]
  omega

/-! ### The boundary and the step -/

/-- The boundary changes memory (DMA) and the RST7.5 flip-flop (an edge, on the 8085) only. -/
theorem State.boundary_eq (s : State) :
    s.boundary = { s with
      mem := (s.dmaTurn .boundary).mem
      ext := if s.variant = .i8085 ∧ s.now.rst75 = true then { s.ext with r75 := true } else s.ext } := by
  unfold State.boundary
  simp only [State.dmaTurn_variant, State.dmaTurn_now]
  split
  · rw [State.dmaTurn_eq]
  · exact State.dmaTurn_eq s _

@[simp] theorem State.boundary_mem (s : State) : s.boundary.mem = (s.dmaTurn .boundary).mem := by
  rw [State.boundary_eq]
@[simp] theorem State.boundary_regs (s : State) : s.boundary.regs = s.regs := by rw [State.boundary_eq]
@[simp] theorem State.boundary_flags (s : State) : s.boundary.flags = s.flags := by rw [State.boundary_eq]
@[simp] theorem State.boundary_sp (s : State) : s.boundary.sp = s.sp := by rw [State.boundary_eq]
@[simp] theorem State.boundary_pc (s : State) : s.boundary.pc = s.pc := by rw [State.boundary_eq]
@[simp] theorem State.boundary_ctl (s : State) : s.boundary.ctl = s.ctl := by rw [State.boundary_eq]
@[simp] theorem State.boundary_platform (s : State) : s.boundary.platform = s.platform := by rw [State.boundary_eq]
@[simp] theorem State.boundary_io (s : State) : s.boundary.io = s.io := by rw [State.boundary_eq]
@[simp] theorem State.boundary_env (s : State) : s.boundary.env = s.env := by rw [State.boundary_eq]
@[simp] theorem State.boundary_tick (s : State) : s.boundary.tick = s.tick := by rw [State.boundary_eq]
@[simp] theorem State.boundary_now (s : State) : s.boundary.now = s.now := by simp [State.now]
@[simp] theorem State.boundary_variant (s : State) : s.boundary.variant = s.variant := by simp [State.variant]
theorem State.boundary_ext (s : State) : s.boundary.ext =
    if s.variant = .i8085 ∧ s.now.rst75 = true then { s.ext with r75 := true } else s.ext := by
  rw [State.boundary_eq]

theorem State.boundary_wf {s : State} (h : Memory.wf s.mem = true) : Memory.wf s.boundary.mem = true := by
  rw [State.boundary_mem]
  exact State.dmaTurn_wf h _

theorem mapNext_next {f : State → State} {r : Result} {t : State} (h : mapNext f r = .next t) :
    ∃ u, r = .next u ∧ t = f u := by
  cases r with
  | next u => exact ⟨u, rfl, (Host.Outcome.next.inj h).symm⟩
  | fault r => cases r
  | refused r => cases h

/-- Everything a step that answers next can have been (R9): a RESET, an accepted request, an idle halted step, or an
instruction from memory. -/
theorem step_cases {s t : State} (h : step s = .next t) :
    (s.now.reset = true ∧ t = s.boundary.applyReset.endStep) ∨
    (s.now.reset = false ∧ ∃ src u, s.boundary.accepted = some src ∧ s.boundary.enter src = .next u ∧ t = u.endStep) ∨
    (s.now.reset = false ∧ s.boundary.accepted = none ∧ s.ctl.halted = true ∧ t = s.boundary.idle.endStep) ∨
    (s.now.reset = false ∧ s.boundary.accepted = none ∧ s.ctl.halted = false ∧
      ∃ i rest u, decode s.variant s.boundary.fetchBytes = .ok (i, rest) ∧
        exec i (s.boundary.afterFetch s.boundary.fetchBytes.length) = .next u ∧
        t = (u.complete s.ctl.eiPending i).endStep) := by
  obtain ⟨u, hu, rfl⟩ := mapNext_next h
  unfold State.act at hu
  simp only [State.boundary_now, State.boundary_ctl] at hu
  split at hu
  · rename_i hr
    exact .inl ⟨hr, by rw [← Host.Outcome.next.inj hu]⟩
  · rename_i hr
    have hr' : s.now.reset = false := by simpa using hr
    split at hu
    · rename_i src hsrc
      exact .inr (.inl ⟨hr', src, u, hsrc, hu, rfl⟩)
    · rename_i hacc
      split at hu
      · rename_i hh
        exact .inr (.inr (.inl ⟨hr', hacc, hh, by rw [← Host.Outcome.next.inj hu]⟩))
      · rename_i hh
        unfold State.fetchExecute at hu
        split at hu
        · rename_i i rest hd
          obtain ⟨w, hw, rfl⟩ := mapNext_next hu
          refine .inr (.inr (.inr ⟨hr', hacc, by simpa using hh, i, rest, w, by simpa using hd, hw, ?_⟩))
          simp
        · cases hu

/-- Everything an entry that answers next can have been (R257 to R259). -/
theorem enter_cases {s t : State} {src : IntSource} (h : s.enter src = .next t) :
    (src = .int ∧ ∃ i u, decodeSupplied s.variant s.now.intByte = some i ∧ exec i s.recognise = .next u ∧
      t = u.complete s.ctl.eiPending i) ∨
    (src ≠ .int ∧ t = (s.clearRequest src).enterRestart (restartAddress src)) := by
  cases src with
  | int =>
    left
    refine ⟨rfl, ?_⟩
    unfold State.enter State.enterSupplied at h
    dsimp only at h
    split at h
    · rename_i i hi
      obtain ⟨w, hw, rfl⟩ := mapNext_next h
      exact ⟨i, w, hi, hw, rfl⟩
    · cases h
  | _ => exact .inr ⟨by simp, (Host.Outcome.next.inj h).symm⟩

end Sys2Proof.Machine
end

