-- ==== Sys2Proof/Laws/PerInstr.lean ====
section
/-! SUPPORT. The families of statements made once for each instruction. -/

/-- The bytes of an instruction are as many as its first byte says (spec/30_encoding.md R70, R80). -/
def Sys2Proof.Laws.EncodingLength.Statement (i : Sys2Proof.Instr) : Prop :=
  ∃ b rest, Sys2Proof.encode i = b :: rest ∧ (Sys2Proof.encode i).length = Sys2Proof.instrLength b

namespace Sys2Proof.Laws.EncodingLength

theorem lda (addr : Word) : Statement (.lda addr) := ⟨_, _, rfl, rfl⟩
theorem ldax (rp : IndexPair) : Statement (.ldax rp) := by
  cases rp <;> exact ⟨_, _, rfl, by decide⟩
theorem lhld (addr : Word) : Statement (.lhld addr) := ⟨_, _, rfl, rfl⟩
theorem lxi (rp : RegPair) (data : Word) : Statement (.lxi rp data) := by
  cases rp <;> exact ⟨_, _, rfl, rfl⟩
theorem mov (dst src : Operand8) : Statement (.mov dst src) := by
  cases dst <;> cases src <;> exact ⟨_, _, rfl, by decide⟩
theorem mvi (dst : Operand8) (data : Byte) : Statement (.mvi dst data) := by
  cases dst <;> exact ⟨_, _, rfl, rfl⟩
theorem shld (addr : Word) : Statement (.shld addr) := ⟨_, _, rfl, rfl⟩
theorem sta (addr : Word) : Statement (.sta addr) := ⟨_, _, rfl, rfl⟩
theorem stax (rp : IndexPair) : Statement (.stax rp) := by
  cases rp <;> exact ⟨_, _, rfl, by decide⟩
theorem xchg : Statement .xchg := ⟨_, _, rfl, by decide⟩
theorem aci (data : Byte) : Statement (.aci data) := ⟨_, _, rfl, rfl⟩
theorem adc (src : Operand8) : Statement (.adc src) := by
  cases src <;> exact ⟨_, _, rfl, by decide⟩
theorem add (src : Operand8) : Statement (.add src) := by
  cases src <;> exact ⟨_, _, rfl, by decide⟩
theorem adi (data : Byte) : Statement (.adi data) := ⟨_, _, rfl, rfl⟩
theorem daa : Statement .daa := ⟨_, _, rfl, by decide⟩
theorem dad (rp : RegPair) : Statement (.dad rp) := by
  cases rp <;> exact ⟨_, _, rfl, by decide⟩
theorem dcr (dst : Operand8) : Statement (.dcr dst) := by
  cases dst <;> exact ⟨_, _, rfl, by decide⟩
theorem dcx (rp : RegPair) : Statement (.dcx rp) := by
  cases rp <;> exact ⟨_, _, rfl, by decide⟩
theorem inr (dst : Operand8) : Statement (.inr dst) := by
  cases dst <;> exact ⟨_, _, rfl, by decide⟩
theorem inx (rp : RegPair) : Statement (.inx rp) := by
  cases rp <;> exact ⟨_, _, rfl, by decide⟩
theorem sbb (src : Operand8) : Statement (.sbb src) := by
  cases src <;> exact ⟨_, _, rfl, by decide⟩
theorem sbi (data : Byte) : Statement (.sbi data) := ⟨_, _, rfl, rfl⟩
theorem sub (src : Operand8) : Statement (.sub src) := by
  cases src <;> exact ⟨_, _, rfl, by decide⟩
theorem sui (data : Byte) : Statement (.sui data) := ⟨_, _, rfl, rfl⟩
theorem ana (src : Operand8) : Statement (.ana src) := by
  cases src <;> exact ⟨_, _, rfl, by decide⟩
theorem ani (data : Byte) : Statement (.ani data) := ⟨_, _, rfl, rfl⟩
theorem cma : Statement .cma := ⟨_, _, rfl, by decide⟩
theorem cmc : Statement .cmc := ⟨_, _, rfl, by decide⟩
theorem cmp (src : Operand8) : Statement (.cmp src) := by
  cases src <;> exact ⟨_, _, rfl, by decide⟩
theorem cpi (data : Byte) : Statement (.cpi data) := ⟨_, _, rfl, rfl⟩
theorem ora (src : Operand8) : Statement (.ora src) := by
  cases src <;> exact ⟨_, _, rfl, by decide⟩
theorem ori (data : Byte) : Statement (.ori data) := ⟨_, _, rfl, rfl⟩
theorem ral : Statement .ral := ⟨_, _, rfl, by decide⟩
theorem rar : Statement .rar := ⟨_, _, rfl, by decide⟩
theorem rlc : Statement .rlc := ⟨_, _, rfl, by decide⟩
theorem rrc : Statement .rrc := ⟨_, _, rfl, by decide⟩
theorem stc : Statement .stc := ⟨_, _, rfl, by decide⟩
theorem xra (src : Operand8) : Statement (.xra src) := by
  cases src <;> exact ⟨_, _, rfl, by decide⟩
theorem xri (data : Byte) : Statement (.xri data) := ⟨_, _, rfl, rfl⟩
theorem call (addr : Word) : Statement (.call addr) := ⟨_, _, rfl, rfl⟩
theorem cc (addr : Word) : Statement (.cc addr) := ⟨_, _, rfl, rfl⟩
theorem cm (addr : Word) : Statement (.cm addr) := ⟨_, _, rfl, rfl⟩
theorem cnc (addr : Word) : Statement (.cnc addr) := ⟨_, _, rfl, rfl⟩
theorem cnz (addr : Word) : Statement (.cnz addr) := ⟨_, _, rfl, rfl⟩
theorem cp (addr : Word) : Statement (.cp addr) := ⟨_, _, rfl, rfl⟩
theorem cpe (addr : Word) : Statement (.cpe addr) := ⟨_, _, rfl, rfl⟩
theorem cpo (addr : Word) : Statement (.cpo addr) := ⟨_, _, rfl, rfl⟩
theorem cz (addr : Word) : Statement (.cz addr) := ⟨_, _, rfl, rfl⟩
theorem jc (addr : Word) : Statement (.jc addr) := ⟨_, _, rfl, rfl⟩
theorem jm (addr : Word) : Statement (.jm addr) := ⟨_, _, rfl, rfl⟩
theorem jmp (addr : Word) : Statement (.jmp addr) := ⟨_, _, rfl, rfl⟩
theorem jnc (addr : Word) : Statement (.jnc addr) := ⟨_, _, rfl, rfl⟩
theorem jnz (addr : Word) : Statement (.jnz addr) := ⟨_, _, rfl, rfl⟩
theorem jp (addr : Word) : Statement (.jp addr) := ⟨_, _, rfl, rfl⟩
theorem jpe (addr : Word) : Statement (.jpe addr) := ⟨_, _, rfl, rfl⟩
theorem jpo (addr : Word) : Statement (.jpo addr) := ⟨_, _, rfl, rfl⟩
theorem jz (addr : Word) : Statement (.jz addr) := ⟨_, _, rfl, rfl⟩
theorem pchl : Statement .pchl := ⟨_, _, rfl, by decide⟩
theorem rc : Statement .rc := ⟨_, _, rfl, by decide⟩
theorem ret : Statement .ret := ⟨_, _, rfl, by decide⟩
theorem rm : Statement .rm := ⟨_, _, rfl, by decide⟩
theorem rnc : Statement .rnc := ⟨_, _, rfl, by decide⟩
theorem rnz : Statement .rnz := ⟨_, _, rfl, by decide⟩
theorem rp : Statement .rp := ⟨_, _, rfl, by decide⟩
theorem rpe : Statement .rpe := ⟨_, _, rfl, by decide⟩
theorem rpo : Statement .rpo := ⟨_, _, rfl, by decide⟩
theorem rst (code : BitVec 3) : Statement (.rst code) := by
  refine ⟨_, _, rfl, ?_⟩
  revert code
  decide
theorem rz : Statement .rz := ⟨_, _, rfl, by decide⟩
theorem di : Statement .di := ⟨_, _, rfl, by decide⟩
theorem ei : Statement .ei := ⟨_, _, rfl, by decide⟩
theorem hlt : Statement .hlt := ⟨_, _, rfl, by decide⟩
theorem inPort (port : Byte) : Statement (.inPort port) := ⟨_, _, rfl, rfl⟩
theorem nop : Statement .nop := ⟨_, _, rfl, by decide⟩
theorem outPort (port : Byte) : Statement (.outPort port) := ⟨_, _, rfl, rfl⟩
theorem pop (rp : StackPair) : Statement (.pop rp) := by
  cases rp <;> exact ⟨_, _, rfl, by decide⟩
theorem push (rp : StackPair) : Statement (.push rp) := by
  cases rp <;> exact ⟨_, _, rfl, by decide⟩
theorem rim : Statement .rim := ⟨_, _, rfl, by decide⟩
theorem sim : Statement .sim := ⟨_, _, rfl, by decide⟩
theorem sphl : Statement .sphl := ⟨_, _, rfl, by decide⟩
theorem xthl : Statement .xthl := ⟨_, _, rfl, by decide⟩

end Sys2Proof.Laws.EncodingLength
end

