-- ==== Sys2Proof/Machine/Assembly.lean ====
section
/-! DEFINITION. The assembler's syntax as far as spec/30_encoding.md describes it: the statement (R87), the operand
forms (R88), constants and expressions (R89), HIGH and LOW (R90), the reserved names (R91). Directives, macros and
relocation itself are left out (R4 b, R92; entry 40). Nothing of the machine depends on this file. -/

namespace Sys2Proof.Machine

/-- One operand of a statement: a reserved name, or the value of an expression; `relocatable` where that value is the
address of an external or relocatable symbol with no HIGH or LOW before it (R90). -/
inductive AsmOperand where
  | name (n : String)
  | value (v : Nat)
  | relocatable (v : Nat)
deriving DecidableEq, Repr

/-- The operand forms `reg` and `M` (R88). -/
def asmOperand8 : AsmOperand → Option Operand8
  | .name "A" => some .a
  | .name "B" => some .b
  | .name "C" => some .c
  | .name "D" => some .d
  | .name "E" => some .e
  | .name "H" => some .h
  | .name "L" => some .l
  | .name "M" => some .m
  | _ => none

/-- The register pairs of LXI, INX, DCX, DAD (R88). -/
def asmRegPair : AsmOperand → Option RegPair
  | .name "B" => some .b
  | .name "D" => some .d
  | .name "H" => some .h
  | .name "SP" => some .sp
  | _ => none

/-- The register pairs of PUSH and POP (R88). -/
def asmStackPair : AsmOperand → Option StackPair
  | .name "B" => some .b
  | .name "D" => some .d
  | .name "H" => some .h
  | .name "PSW" => some .psw
  | _ => none

/-- The register pairs of LDAX and STAX (R88). -/
def asmIndexPair : AsmOperand → Option IndexPair
  | .name "B" => some .b
  | .name "D" => some .d
  | _ => none

/-- "an expression with a one-byte value" (R88). For a relocatable address with no operator "the assembler assumes the
LOW operator" (R90), and `AsmOperand.messaged` says that it issues a message. DESIGN CHOICE: the assumed LOW covers the
whole value of the expression, not the symbol alone, so SYM+0FFH wraps (entry 41). -/
def asmByte : AsmOperand → Option Byte
  | .value v => if v < 256 then some (BitVec.ofNat 8 v) else none
  | .relocatable v => some (BitVec.ofNat 8 v)
  | .name _ => none

/-- The port of IN and OUT: "an expression in 00H to 0FFH" (R88). DESIGN CHOICE: a relocatable address with no operator
gets the assumed LOW here too, which R90 states for the immediate instructions only (entry 41). -/
def asmPort (x : AsmOperand) : Option Byte := asmByte x

/-- Whether an immediate operand, or a port, draws the error message of R90. -/
def AsmOperand.messaged : AsmOperand → Bool
  | .relocatable _ => true
  | _ => false

/-- An address, or "an expression with a two-byte value" (R88). -/
def asmWord : AsmOperand → Option Word
  | .value v => if v < 65536 then some (BitVec.ofNat 16 v) else none
  | .relocatable v => if v < 65536 then some (BitVec.ofNat 16 v) else none
  | .name _ => none

/-- The restart code, 000B through 111B (R88). DESIGN CHOICE: a relocatable value is refused, even one of 0 to 7
(entry 41). -/
def asmCode : AsmOperand → Option (BitVec 3)
  | .value v => if v < 8 then some (BitVec.ofNat 3 v) else none
  | .relocatable _ => none
  | .name _ => none

/-- The instructions that take no operand. -/
def assembleBare : String → Option Instr
  | "XCHG" => some .xchg
  | "DAA" => some .daa
  | "CMA" => some .cma
  | "CMC" => some .cmc
  | "RAL" => some .ral
  | "RAR" => some .rar
  | "RLC" => some .rlc
  | "RRC" => some .rrc
  | "STC" => some .stc
  | "PCHL" => some .pchl
  | "RC" => some .rc
  | "RET" => some .ret
  | "RM" => some .rm
  | "RNC" => some .rnc
  | "RNZ" => some .rnz
  | "RP" => some .rp
  | "RPE" => some .rpe
  | "RPO" => some .rpo
  | "RZ" => some .rz
  | "DI" => some .di
  | "EI" => some .ei
  | "HLT" => some .hlt
  | "NOP" => some .nop
  | "RIM" => some .rim
  | "SIM" => some .sim
  | "SPHL" => some .sphl
  | "XTHL" => some .xthl
  | _ => none

/-- The instructions that take one operand. -/
def assembleOne (mnemonic : String) (x : AsmOperand) : Option Instr :=
  match mnemonic with
  | "LDA" => (asmWord x).map .lda
  | "LDAX" => (asmIndexPair x).map .ldax
  | "LHLD" => (asmWord x).map .lhld
  | "SHLD" => (asmWord x).map .shld
  | "STA" => (asmWord x).map .sta
  | "STAX" => (asmIndexPair x).map .stax
  | "ACI" => (asmByte x).map .aci
  | "ADC" => (asmOperand8 x).map .adc
  | "ADD" => (asmOperand8 x).map .add
  | "ADI" => (asmByte x).map .adi
  | "DAD" => (asmRegPair x).map .dad
  | "DCR" => (asmOperand8 x).map .dcr
  | "DCX" => (asmRegPair x).map .dcx
  | "INR" => (asmOperand8 x).map .inr
  | "INX" => (asmRegPair x).map .inx
  | "SBB" => (asmOperand8 x).map .sbb
  | "SBI" => (asmByte x).map .sbi
  | "SUB" => (asmOperand8 x).map .sub
  | "SUI" => (asmByte x).map .sui
  | "ANA" => (asmOperand8 x).map .ana
  | "ANI" => (asmByte x).map .ani
  | "CMP" => (asmOperand8 x).map .cmp
  | "CPI" => (asmByte x).map .cpi
  | "ORA" => (asmOperand8 x).map .ora
  | "ORI" => (asmByte x).map .ori
  | "XRA" => (asmOperand8 x).map .xra
  | "XRI" => (asmByte x).map .xri
  | "CALL" => (asmWord x).map .call
  | "CC" => (asmWord x).map .cc
  | "CM" => (asmWord x).map .cm
  | "CNC" => (asmWord x).map .cnc
  | "CNZ" => (asmWord x).map .cnz
  | "CP" => (asmWord x).map .cp
  | "CPE" => (asmWord x).map .cpe
  | "CPO" => (asmWord x).map .cpo
  | "CZ" => (asmWord x).map .cz
  | "JC" => (asmWord x).map .jc
  | "JM" => (asmWord x).map .jm
  | "JMP" => (asmWord x).map .jmp
  | "JNC" => (asmWord x).map .jnc
  | "JNZ" => (asmWord x).map .jnz
  | "JP" => (asmWord x).map .jp
  | "JPE" => (asmWord x).map .jpe
  | "JPO" => (asmWord x).map .jpo
  | "JZ" => (asmWord x).map .jz
  | "RST" => (asmCode x).map .rst
  | "IN" => (asmPort x).map .inPort
  | "OUT" => (asmPort x).map .outPort
  | "POP" => (asmStackPair x).map .pop
  | "PUSH" => (asmStackPair x).map .push
  | _ => none

/-- A mnemonic and its operands as an instruction, if the operands have a legal form (R88); MOV may not have M twice. -/
def assemble (mnemonic : String) (operands : List AsmOperand) : Option Instr :=
  match operands with
  | [] => assembleBare mnemonic
  | [x] => assembleOne mnemonic x
  | [x, y] =>
    match mnemonic with
    | "LXI" => (asmRegPair x).bind fun rp => (asmWord y).map (.lxi rp)
    | "MVI" => (asmOperand8 x).bind fun dst => (asmByte y).map (.mvi dst)
    | "MOV" => (asmOperand8 x).bind fun dst => (asmOperand8 y).bind fun src =>
        if dst = .m ∧ src = .m then none else some (.mov dst src)
    | _ => none
  | _ => none

/-- The value of a digit, upper-case hexadecimal. -/
def digitValue (c : Char) : Option Nat :=
  let n := c.toNat
  if 48 ≤ n ∧ n ≤ 57 then some (n - 48) else if 65 ≤ n ∧ n ≤ 70 then some (n - 55) else none

/-- The value of a run of digits in a base. -/
def digitsValue (base : Nat) : List Char → Nat → Option Nat
  | [], acc => some acc
  | c :: rest, acc =>
    match digitValue c with
    | some d => if d < base then digitsValue base rest (acc * base + d) else none
    | none => none

/-- A number of R89: decimal with no suffix, hexadecimal with H, binary with B, octal with Q. It begins with a digit
0 to 9 (the rule the spec infers from the printed constants). -/
def numberValue (cs : List Char) : Option Nat :=
  match cs with
  | [] => none
  | first :: _ =>
    if 48 ≤ first.toNat ∧ first.toNat ≤ 57 then
      match cs.getLast? with
      | some 'H' => digitsValue 16 cs.dropLast 0
      | some 'B' => digitsValue 2 cs.dropLast 0
      | some 'Q' => digitsValue 8 cs.dropLast 0
      | _ => digitsValue 10 cs 0
    else none

/-- An ASCII constant of R89, without its quotes: one character, or two with the first in the high byte. Any other number
of characters is refused (DESIGN CHOICE: entry 44). -/
def asciiValue : List Char → Option Nat
  | [c] => some c.toNat
  | [c, d] => some (c.toNat * 256 + d.toNat)
  | _ => none

/-- An expression of R89 and R90 (`*` binds tighter than `+`); a symbol is a label. -/
inductive AsmExpr where
  | number (cs : List Char)
  | ascii (cs : List Char)
  | symbol (name : String)
  | plus (x y : AsmExpr)
  | times (x y : AsmExpr)
  | high (x : AsmExpr)
  | low (x : AsmExpr)
deriving DecidableEq, Repr

/-- A label with its address. -/
structure AsmSymbol where
  name        : String
  value       : Nat
  relocatable : Bool
deriving DecidableEq, Repr

/-- The operand two values make. DESIGN CHOICE: relocatable where one of them is (entry 44). -/
def AsmOperand.combine (f : Nat → Nat → Nat) : AsmOperand → AsmOperand → Option AsmOperand
  | .value a, .value b => some (.value (f a b))
  | .value a, .relocatable b => some (.relocatable (f a b))
  | .relocatable a, .value b => some (.relocatable (f a b))
  | .relocatable a, .relocatable b => some (.relocatable (f a b))
  | _, _ => none

/-- One byte of an address, no longer relocatable (R90). -/
def AsmOperand.select (f : Nat → Nat) : AsmOperand → Option AsmOperand
  | .value a => some (.value (f a))
  | .relocatable a => some (.value (f a))
  | .name _ => none

/-- The value of an expression, with a table of labels. HIGH selects bits 15..8, LOW bits 7..0 (R90). DESIGN
CHOICE: sums and products are exact, not taken modulo 2^16 (entry 44). -/
def AsmExpr.eval (table : List AsmSymbol) : AsmExpr → Option AsmOperand
  | .number cs => (numberValue cs).map .value
  | .ascii cs => (asciiValue cs).map .value
  | .symbol name =>
    (table.find? (fun e => e.name = name)).map fun e => if e.relocatable then .relocatable e.value else .value e.value
  | .plus x y => (x.eval table).bind fun a => (y.eval table).bind fun b => a.combine (· + ·) b
  | .times x y => (x.eval table).bind fun a => (y.eval table).bind fun b => a.combine (· * ·) b
  | .high x => (x.eval table).bind fun a => a.select (· / 256 % 256)
  | .low x => (x.eval table).bind fun a => a.select (· % 256)

/-! ### Reading a statement (R87) -/

/-- Cut at every `sep` that stands outside single quotes (DESIGN CHOICE: one inside them separates nothing; entry 43). `cur` is the piece read so far, reversed. -/
def cutAt (sep : Char) : List Char → Bool → List Char → List (List Char)
  | [], _, cur => [cur.reverse]
  | c :: rest, quoted, cur =>
    if c = sep ∧ quoted = false then cur.reverse :: cutAt sep rest false []
    else cutAt sep rest (if c = '\'' then !quoted else quoted) (c :: cur)

/-- The pieces between `sep` outside quotes; there is always one. -/
def pieces (sep : Char) (cs : List Char) : List (List Char) := cutAt sep cs false []

/-- Without the blanks at both ends. -/
def trimBlanks (cs : List Char) : List Char :=
  ((cs.dropWhile (· = ' ')).reverse.dropWhile (· = ' ')).reverse

/-- A constant or a label (R89). -/
def readAtom (cs : List Char) : Option AsmExpr :=
  match cs with
  | [] => none
  | c :: rest =>
    if c = '\'' then
      if rest.getLast? = some '\'' then some (.ascii rest.dropLast) else none
    else if 48 ≤ c.toNat ∧ c.toNat ≤ 57 then some (.number cs)
    else some (.symbol (String.ofList cs))

/-- A factor: an atom, with HIGH or LOW before it where the statement has one (R90). -/
def readFactor (cs : List Char) : Option AsmExpr :=
  let t := trimBlanks cs
  if "HIGH ".toList <+: t then (readAtom (trimBlanks (t.drop 5))).map .high
  else if "LOW ".toList <+: t then (readAtom (trimBlanks (t.drop 4))).map .low
  else readAtom t

/-- The pieces of a sum or a product, combined from the left. -/
def foldPieces (join : AsmExpr → AsmExpr → AsmExpr) (read : List Char → Option AsmExpr) :
    List (List Char) → Option AsmExpr
  | [] => none
  | p :: rest => rest.foldl (fun acc q => acc.bind fun x => (read q).map (join x)) (read p)

/-- An expression: a sum of products of factors (R89: `*` binds tighter than `+`). -/
def readExpr (cs : List Char) : Option AsmExpr :=
  foldPieces .plus (fun p => foldPieces .times readFactor (pieces '*' p)) (pieces '+' cs)

/-- The register names of R88, reserved by R91. -/
def registerNames : List String := ["A", "B", "C", "D", "E", "H", "L", "M", "SP", "PSW"]

/-- The 80 mnemonics (R87), reserved by R91. -/
def mnemonicNames : List String :=
  ["ACI", "ADC", "ADD", "ADI", "ANA", "ANI", "CALL", "CC", "CM", "CMA", "CMC", "CMP", "CNC", "CNZ", "CP", "CPE", "CPI",
   "CPO", "CZ", "DAA"] ++
  ["DAD", "DCR", "DCX", "DI", "EI", "HLT", "IN", "INR", "INX", "JC", "JM", "JMP", "JNC", "JNZ", "JP", "JPE", "JPO",
   "JZ", "LDA", "LDAX"] ++
  ["LHLD", "LXI", "MOV", "MVI", "NOP", "ORA", "ORI", "OUT", "PCHL", "POP", "PUSH", "RAL", "RAR", "RC", "RET", "RIM",
   "RLC", "RM", "RNC", "RNZ"] ++
  ["RP", "RPE", "RPO", "RRC", "RST", "RZ", "SBB", "SBI", "SHLD", "SIM", "SPHL", "STA", "STAX", "STC", "SUB", "SUI",
   "XCHG", "XRA", "XRI", "XTHL"]

/-- The names a label may not have (R91). STACK is one: the LOCATE program gives it its address. -/
def isReserved (name : String) : Bool :=
  registerNames.contains name || mnemonicNames.contains name || name == "STACK"

/-- A statement: an optional label, and, where the line has one, a mnemonic with its operands' text (R87). -/
structure AsmStatement where
  label    : Option String
  code     : Option (String × List (List Char))
deriving DecidableEq, Repr

/-- The mnemonic and the operands of the text after the label. DESIGN CHOICE: the mnemonic ends at the first blank, only
the space is a blank, and letters are upper case (N17; entry 43). -/
def readCode (cs : List Char) : Option (String × List (List Char)) :=
  match trimBlanks cs with
  | [] => none
  | t =>
    let operands := trimBlanks (t.dropWhile (· ≠ ' '))
    some (String.ofList (t.takeWhile (· ≠ ' ')), if operands = [] then [] else (pieces ',' operands).map trimBlanks)

/-- One line: label and colon, mnemonic, operands at commas, comment from a semicolon (R87). DESIGN CHOICE: whatever stands
before the first colon, even nothing, is the label, and the text on both sides of a further colon is joined (N17;
entry 43). -/
def readStatement (line : List Char) : AsmStatement :=
  let text := (pieces ';' line).headD []
  match pieces ':' text with
  | [] => { label := none, code := none }
  | [t] => { label := none, code := readCode t }
  | l :: rest => { label := some (String.ofList (trimBlanks l)), code := readCode (rest.flatten) }

/-- An operand's text as an operand: a register name, or an expression. -/
def readOperandText (table : List AsmSymbol) (cs : List Char) : Option AsmOperand :=
  if registerNames.contains (String.ofList cs) then some (.name (String.ofList cs))
  else (readExpr cs).bind (·.eval table)

/-- The operands of a statement, if each can be read. -/
def readOperands (table : List AsmSymbol) : List (List Char) → Option (List AsmOperand)
  | [] => some []
  | t :: rest => (readOperandText table t).bind fun x => (readOperands table rest).map (x :: ·)

/-- The instruction of a statement, if it has one. -/
def AsmStatement.instr (table : List AsmSymbol) (st : AsmStatement) : Option Instr :=
  st.code.bind fun c => (readOperands table c.2).bind (assemble c.1)

/-- How many bytes a statement assembles to. The mnemonic alone decides it (R93). -/
def AsmStatement.size (st : AsmStatement) : Nat :=
  match st.code with
  | none => 0
  | some (m, _) =>
    if ["LXI", "SHLD", "LHLD", "STA", "LDA", "JMP", "CALL"].contains m then 3
    else if ["JNZ", "JZ", "JNC", "JC", "JPO", "JPE", "JP", "JM"].contains m then 3
    else if ["CNZ", "CZ", "CNC", "CC", "CPO", "CPE", "CP", "CM"].contains m then 3
    else if ["MVI", "ADI", "ACI", "SUI", "SBI", "ANI", "XRI", "ORI", "CPI", "IN", "OUT"].contains m then 2
    else 1

/-- The labels of some statements that stand from `address` on; none where a label is reserved (R91) or, DESIGN CHOICE,
given twice (entry 43). -/
def labelTable (relocatable : Bool) : List AsmStatement → Nat → List AsmSymbol → Option (List AsmSymbol)
  | [], _, table => some table
  | st :: rest, address, table =>
    match st.label with
    | none => labelTable relocatable rest (address + st.size) table
    | some l =>
      if isReserved l || table.any (fun e => e.name = l) then none
      else labelTable relocatable rest (address + st.size)
        ({ name := l, value := address, relocatable := relocatable } :: table)

/-- The bytes of some statements with a table of labels. -/
def assembleStatements (table : List AsmSymbol) : List AsmStatement → Option (List Byte)
  | [] => some []
  | st :: rest =>
    match st.code with
    | none => assembleStatements table rest
    | some _ => (st.instr table).bind fun i => (assembleStatements table rest).map (encode i ++ ·)

/-- A program's text as bytes from `origin` on. `stack` is the address the LOCATE program gives to STACK (R91), and
`relocatable` says whether the labels are relocatable symbols (R90). -/
def assembleText (origin stack : Nat) (relocatable : Bool) (lines : List (List Char)) : Option (List Byte) :=
  let statements := lines.map readStatement
  (labelTable relocatable statements origin []).bind fun table =>
    assembleStatements ({ name := "STACK", value := stack, relocatable := true } :: table) statements

end Sys2Proof.Machine
end

