-- ==== Sys2Proof/Tests/Slice0.lean ====
section
/-! SUPPORT. Tests of one step each, with results from spec/95_test_vectors.md (the vector's name is in the test's),
the decoding of a word written out from spec/30_encoding.md for every constructor, and a witness for the hypotheses of
every statement that has some. -/

/-- One byte of memory set. -/
def Sys2Proof.Machine.State.poke (s : Sys2Proof.Machine.State) (a : Sys2Proof.Word) (b : Sys2Proof.Byte) :
    Sys2Proof.Machine.State :=
  { s with mem := Sys2Proof.Machine.Memory.write s.mem a.toNat b }

namespace Sys2Proof.Tests

open Sys2Proof Sys2Proof.Machine

/-- The defaults of spec/95_test_vectors.md: pc 0x0100, SP 0x2400, everything else 0. -/
def start (v : Variant) : State :=
  { State.reset with
    platform := { State.reset.platform with variant := v }
    sp := 0x2400
    pc := 0x0100
    ext := { m75 := false, m65 := false, m55 := false, r75 := false, sod := false } }


/-- Bytes set from an address on. -/
def pokes (s : State) (a : Word) : List Byte → State
  | [] => s
  | b :: rest => pokes (s.poke a b) (a + 1) rest

/-- The state before a vector's step: the defaults changed by `f`, and the bytes at pc. -/
def before (v : Variant) (bytes : List Byte) (f : State → State) : State := pokes (f (start v)) (f (start v)).pc bytes

/-- One step of it. -/
def runOne (v : Variant) (bytes : List Byte) (f : State → State) : Result := step (before v bytes f)

/-- Five flags in the order of the flag byte. -/
def flagBits (s z ac p cy : Bool) : Flags := { s := s, z := z, ac := ac, p := p, cy := cy }

/-- The next state, if there is one. -/
def nextOf : Result → Option State
  | .next t => some t
  | _ => none

/-- Whether a result is the verdict `Undefined(b)`. -/
def isUndefined (r : Result) (b : Byte) : Bool :=
  match r with
  | .refused (.undefinedOpcode x) => x = b
  | _ => false

/-- Whether a result is the verdict `BadInterruptInstruction(b)`. -/
def isBadInterrupt (r : Result) (b : Byte) : Bool :=
  match r with
  | .refused (.badInterruptInstruction x) => x = b
  | _ => false

/-- The default start on the 8085 with these inputs at the coming boundary. -/
def facing (x : Inputs) : State := { start .i8085 with env := [x] }

/-! ### Well-formed terms -/

theorem test_mov_memory_to_memory_is_ill_formed :
    (Instr.mov .m .m).wellFormed .i8080 = false ∧ (Instr.mov .m .m).wellFormed .i8085 = false := by
  decide

theorem test_rim_is_ill_formed_on_8080 :
    Instr.rim.wellFormed .i8080 = false ∧ Instr.rim.wellFormed .i8085 = true := by
  decide

theorem test_sim_is_ill_formed_on_8080 :
    Instr.sim.wellFormed .i8080 = false ∧ Instr.sim.wellFormed .i8085 = true := by
  decide

/-! ### Decoding: every constructor, from the patterns of R71 and R82 written out in bits -/

theorem test_decode_data_transfer :
    decode .i8080 [0b00111010, 0x00, 0x03] = .ok (.lda 0x0300, []) ∧
    decode .i8080 [0b00011010] = .ok (.ldax .d, []) ∧
    decode .i8080 [0b00101010, 0x00, 0x30] = .ok (.lhld 0x3000, []) ∧
    decode .i8080 [0b00110001, 0x34, 0x12] = .ok (.lxi .sp 0x1234, []) ∧
    decode .i8080 [0b01011111] = .ok (.mov .e .a, []) ∧
    decode .i8080 [0b00110110, 0x41] = .ok (.mvi .m 0x41, []) ∧
    decode .i8080 [0b00100010, 0x0A, 0x01] = .ok (.shld 0x010A, []) ∧
    decode .i8080 [0b00110010, 0xB3, 0x05] = .ok (.sta 0x05B3, []) ∧
    decode .i8080 [0b00000010] = .ok (.stax .b, []) ∧
    decode .i8080 [0b11101011] = .ok (.xchg, []) := by
  decide

theorem test_decode_arithmetic :
    decode .i8080 [0b11001110, 0x42] = .ok (.aci 0x42, []) ∧
    decode .i8080 [0b10001001] = .ok (.adc .c, []) ∧
    decode .i8080 [0b10000010] = .ok (.add .d, []) ∧
    decode .i8080 [0b11000110, 0x42] = .ok (.adi 0x42, []) ∧
    decode .i8080 [0b00100111] = .ok (.daa, []) ∧
    decode .i8080 [0b00111001] = .ok (.dad .sp, []) ∧
    decode .i8080 [0b00110101] = .ok (.dcr .m, []) := by
  decide

theorem test_decode_arithmetic_2 :
    decode .i8080 [0b00101011] = .ok (.dcx .h, []) ∧
    decode .i8080 [0b00001100] = .ok (.inr .c, []) ∧
    decode .i8080 [0b00010011] = .ok (.inx .d, []) ∧
    decode .i8080 [0b10011000] = .ok (.sbb .b, []) ∧
    decode .i8080 [0b11011110, 0x05] = .ok (.sbi 0x05, []) ∧
    decode .i8080 [0b10010111] = .ok (.sub .a, []) ∧
    decode .i8080 [0b11010110, 0x01] = .ok (.sui 0x01, []) := by
  decide

theorem test_decode_logical :
    decode .i8080 [0b10100001] = .ok (.ana .c, []) ∧
    decode .i8080 [0b11100110, 0xBF] = .ok (.ani 0xBF, []) ∧
    decode .i8080 [0b00101111] = .ok (.cma, []) ∧
    decode .i8080 [0b00111111] = .ok (.cmc, []) ∧
    decode .i8080 [0b10111011] = .ok (.cmp .e, []) ∧
    decode .i8080 [0b11111110, 0x43] = .ok (.cpi 0x43, []) ∧
    decode .i8080 [0b10110010] = .ok (.ora .d, []) ∧
    decode .i8080 [0b11110110, 0x41] = .ok (.ori 0x41, []) := by
  decide

theorem test_decode_logical_2 :
    decode .i8080 [0b00010111] = .ok (.ral, []) ∧
    decode .i8080 [0b00011111] = .ok (.rar, []) ∧
    decode .i8080 [0b00000111] = .ok (.rlc, []) ∧
    decode .i8080 [0b00001111] = .ok (.rrc, []) ∧
    decode .i8080 [0b00110111] = .ok (.stc, []) ∧
    decode .i8080 [0b10101110] = .ok (.xra .m, []) ∧
    decode .i8080 [0b11101110, 0xC0] = .ok (.xri 0xC0, []) := by
  decide

theorem test_decode_calls_and_jumps :
    decode .i8080 [0b11001101, 0x00, 0x02] = .ok (.call 0x0200, []) ∧
    decode .i8080 [0b11000100, 0x00, 0x02] = .ok (.cnz 0x0200, []) ∧
    decode .i8080 [0b11001100, 0x00, 0x02] = .ok (.cz 0x0200, []) ∧
    decode .i8080 [0b11010100, 0x00, 0x02] = .ok (.cnc 0x0200, []) ∧
    decode .i8080 [0b11011100, 0x00, 0x02] = .ok (.cc 0x0200, []) ∧
    decode .i8080 [0b11100100, 0x00, 0x02] = .ok (.cpo 0x0200, []) ∧
    decode .i8080 [0b11101100, 0x00, 0x02] = .ok (.cpe 0x0200, []) ∧
    decode .i8080 [0b11110100, 0x00, 0x02] = .ok (.cp 0x0200, []) ∧
    decode .i8080 [0b11111100, 0x00, 0x02] = .ok (.cm 0x0200, []) := by
  decide

theorem test_decode_calls_and_jumps_2 :
    decode .i8080 [0b11000011, 0x00, 0x30] = .ok (.jmp 0x3000, []) ∧
    decode .i8080 [0b11000010, 0x00, 0x30] = .ok (.jnz 0x3000, []) ∧
    decode .i8080 [0b11001010, 0x00, 0x30] = .ok (.jz 0x3000, []) ∧
    decode .i8080 [0b11010010, 0x00, 0x30] = .ok (.jnc 0x3000, []) ∧
    decode .i8080 [0b11011010, 0x00, 0x30] = .ok (.jc 0x3000, []) ∧
    decode .i8080 [0b11100010, 0x00, 0x30] = .ok (.jpo 0x3000, []) ∧
    decode .i8080 [0b11101010, 0x00, 0x30] = .ok (.jpe 0x3000, []) ∧
    decode .i8080 [0b11110010, 0x00, 0x30] = .ok (.jp 0x3000, []) ∧
    decode .i8080 [0b11111010, 0x00, 0x30] = .ok (.jm 0x3000, []) := by
  decide

theorem test_decode_returns_and_restart :
    decode .i8080 [0b11101001] = .ok (.pchl, []) ∧
    decode .i8080 [0b11001001] = .ok (.ret, []) ∧
    decode .i8080 [0b11000000] = .ok (.rnz, []) ∧
    decode .i8080 [0b11001000] = .ok (.rz, []) ∧
    decode .i8080 [0b11010000] = .ok (.rnc, []) ∧
    decode .i8080 [0b11011000] = .ok (.rc, []) := by
  decide

theorem test_decode_returns_and_restart_2 :
    decode .i8080 [0b11100000] = .ok (.rpo, []) ∧
    decode .i8080 [0b11101000] = .ok (.rpe, []) ∧
    decode .i8080 [0b11110000] = .ok (.rp, []) ∧
    decode .i8080 [0b11111000] = .ok (.rm, []) ∧
    decode .i8080 [0b11101111] = .ok (.rst 5, []) := by
  decide

theorem test_decode_stack_io_control :
    decode .i8080 [0b11110011] = .ok (.di, []) ∧
    decode .i8080 [0b11111011] = .ok (.ei, []) ∧
    decode .i8080 [0b01110110] = .ok (.hlt, []) ∧
    decode .i8080 [0b11011011, 0x10] = .ok (.inPort 0x10, []) ∧
    decode .i8080 [0b00000000] = .ok (.nop, []) ∧
    decode .i8080 [0b11010011, 0x01] = .ok (.outPort 0x01, []) := by
  decide

theorem test_decode_stack_io_control_2 :
    decode .i8080 [0b11110001] = .ok (.pop .psw, []) ∧
    decode .i8080 [0b11000101] = .ok (.push .b, []) ∧
    decode .i8085 [0b00100000] = .ok (.rim, []) ∧
    decode .i8085 [0b00110000] = .ok (.sim, []) ∧
    decode .i8080 [0b11111001] = .ok (.sphl, []) ∧
    decode .i8080 [0b11100011] = .ok (.xthl, []) := by
  decide

set_option maxRecDepth 8000 in
/-- The counts of R82. -/
theorem test_counts_of_defined_first_bytes :
    (List.range 256).countP (fun n => (decodeOpcode .i8080 (BitVec.ofNat 8 n) 0 0).isSome) = 244 ∧
    (List.range 256).countP (fun n => (decodeOpcode .i8085 (BitVec.ofNat 8 n) 0 0).isSome) = 246 := by
  decide

/-- The host's two questions, on the word of LDA 0300H: 3A 00 03. -/
theorem test_table_word :
    decodeTableWord 24 0x03003A = some (.lda 0x0300) ∧
    (nextOf (step (State.reset.withFetchWord 24 0x03003A))).map (fun t => t.pc) = some 0x0003 := by
  decide

/-- One line assembled at address 0. -/
def line (text : String) : Option (List Byte) := assembleText 0 0xF000 false [text.toList]

/-- R89: the source's six ways of writing the ASCII character A. -/
theorem test_assembler_constants :
    line "MVI M,01000001B" = some [0x36, 0x41] ∧ line "MVI M,'A'" = some [0x36, 0x41] ∧
    line "MVI M,41H" = some [0x36, 0x41] ∧ line "MVI M,101Q" = some [0x36, 0x41] ∧
    line "MVI M,65" = some [0x36, 0x41] ∧ line "MVI M,5+30*2" = some [0x36, 0x41] := by
  decide

/-- R87, R88, R91: lines the source prints, MOV M,M and a reserved label refused, and STACK. -/
theorem test_assembler_statements :
    line "STA 5B3H" = some [0x32, 0xB3, 0x05] ∧ line "LXI B,'AZ'" = some [0x01, 0x5A, 0x41] ∧
    line "LOOP: MOV A,M ; load byte to be moved" = some [0x7E] ∧ line "PLUS: ;SIGN BIT RESET" = some [] ∧
    line "MOV M,M" = none ∧ line "STACK: NOP" = none ∧ line "LXI SP,STACK" = some [0x31, 0x00, 0xF0] ∧
    line "MVI A,HIGH STACK" = some [0x3E, 0xF0] ∧ line "MVI A,STACK" = some [0x3E, 0x00] := by
  decide

/-- P1 of spec/95_test_vectors.md, the source's block move: the text of each line against the bytes printed beside it. -/
theorem test_assembler_program :
    assembleText 0x0100 0 false
      (["MVI B,5H ; set control counter", "LXI H,250H ; load H & L with source address",
        "LXI D,900H ; load D & E with destination address", "LOOP: MOV A,M ; load byte to be moved",
        "STAX D ; store byte", "DCX D ; decrement destination address", "DCX H ; decrement source address",
        "DCR B ; decrement control counter", "XRA A ; clear accumulator", "CMP B ; compare control counter to zero",
        "JNZ LOOP ; move another byte if counter not zero"].map String.toList) =
      some [0x06, 0x05, 0x21, 0x50, 0x02, 0x11, 0x00, 0x09, 0x7E, 0x12, 0x1B, 0x2B, 0x05, 0xAF, 0xB8, 0xC2, 0x08,
            0x01] := by
  decide

/-! ### One step of each instruction, from the vectors of spec/95_test_vectors.md, section 2 -/

theorem test_t_mov_2 :
    (nextOf (runOne .i8080 [0x77] (fun s => { s with regs.a := 0x99, regs.h := 0x30, regs.l := 0x10 }))).map
      (fun t => (t.pc, t.read8 0x3010)) = some (0x0101, 0x99) := by
  decide

theorem test_t_mov_5 :
    (nextOf (runOne .i8080 [0x66] (fun s => ({ s with regs.h := 0x30, regs.l := 0x10 }).poke 0x3010 0x77))).map
      (fun t => (t.regs.h, t.pc)) = some (0x77, 0x0101) := by
  decide

theorem test_t_mvi_2 :
    (nextOf (runOne .i8080 [0x36, 0x41] (fun s => { s with regs.h := 0x20, regs.l := 0x00 }))).map
      (fun t => (t.pc, t.read8 0x2000)) = some (0x0102, 0x41) := by
  decide

theorem test_t_lxi_2 :
    (nextOf (runOne .i8080 [0x31, 0xFF, 0xFF] id)).map (fun t => (t.sp, t.pc)) = some (0xFFFF, 0x0103) := by
  decide

theorem test_t_lda_1 :
    (nextOf (runOne .i8080 [0x3A, 0x00, 0x03] (fun s => s.poke 0x0300 0x7E))).map (fun t => (t.regs.a, t.pc)) =
      some (0x7E, 0x0103) := by
  decide

theorem test_t_sta_1 :
    (nextOf (runOne .i8080 [0x32, 0xB3, 0x05] (fun s => { s with regs.a := 0xC4 }))).map
      (fun t => (t.pc, t.read8 0x05B3)) = some (0x0103, 0xC4) := by
  decide

theorem test_t_lhld_2 :
    (nextOf (runOne .i8080 [0x2A, 0xFF, 0xFF] (fun s => pokes s 0xFFFF [0x11, 0x22]))).map
      (fun t => (t.regs.h, t.regs.l, t.pc)) = some (0x22, 0x11, 0x0103) := by
  decide

theorem test_t_shld_2 :
    (nextOf (runOne .i8080 [0x22, 0xFF, 0xFF] (fun s => { s with regs.h := 0xAE, regs.l := 0x29 }))).map
      (fun t => (t.pc, t.read8 0x0000, t.read8 0xFFFF)) = some (0x0103, 0xAE, 0x29) := by
  decide

theorem test_t_ldax_2 :
    (nextOf (runOne .i8080 [0x1A] (fun s => ({ s with regs.d := 0x93, regs.e := 0xBB }).poke 0x93BB 0x5A))).map
      (fun t => (t.regs.a, t.pc)) = some (0x5A, 0x0101) := by
  decide

theorem test_t_stax_1 :
    (nextOf (runOne .i8080 [0x02] (fun s => { s with regs.a := 0x77, regs.b := 0x3F, regs.c := 0x16 }))).map
      (fun t => (t.pc, t.read8 0x3F16)) = some (0x0101, 0x77) := by
  decide

theorem test_t_xchg_1 :
    (nextOf (runOne .i8080 [0xEB]
      (fun s => { s with regs.h := 0x12, regs.l := 0x34, regs.d := 0xAB, regs.e := 0xCD }))).map
      (fun t => (t.regs.d, t.regs.e, t.regs.h, t.regs.l, t.pc)) = some (0x12, 0x34, 0xAB, 0xCD, 0x0101) := by
  decide

theorem test_a_add_1 :
    (nextOf (runOne .i8080 [0x80] (fun s => { s with regs.a := 0xFF, regs.b := 0x01 }))).map
      (fun t => (t.regs.a, t.pc, t.flags)) = some (0x00, 0x0101, flagBits false true true true true) := by
  decide

theorem test_a_add_3 :
    (nextOf (runOne .i8080 [0x86]
      (fun s => ({ s with regs.a := 0x10, regs.h := 0x30, regs.l := 0x00 }).poke 0x3000 0x22))).map
      (fun t => (t.regs.a, t.pc, t.flags)) = some (0x32, 0x0101, flagBits false false false false false) := by
  decide

theorem test_a_adc_1 :
    (nextOf (runOne .i8080 [0x88] (fun s => { s with regs.a := 0x0F, regs.b := 0x00, flags.cy := true }))).map
      (fun t => (t.regs.a, t.pc, t.flags)) = some (0x10, 0x0101, flagBits false false true false false) := by
  decide

theorem test_a_adc_3 :
    (nextOf (runOne .i8080 [0x8E]
      (fun s => ({ s with regs.a := 0x01, regs.h := 0x30, regs.l := 0x00, flags.cy := true }).poke 0x3000 0xFE))).map
      (fun t => (t.regs.a, t.pc, t.flags)) = some (0x00, 0x0101, flagBits false true true true true) := by
  decide

theorem test_a_adi_1 :
    (nextOf (runOne .i8080 [0xC6, 0x00]
      (fun s => { s with regs.a := 0x80, flags.cy := true, flags.ac := true }))).map (fun t => (t.pc, t.flags)) =
      some (0x0102, flagBits true false false false false) := by
  decide

theorem test_a_aci_1 :
    (nextOf (runOne .i8080 [0xCE, 0x00] (fun s => { s with regs.a := 0xFF, flags.cy := true }))).map
      (fun t => (t.regs.a, t.pc, t.flags)) = some (0x00, 0x0102, flagBits false true true true true) := by
  decide

theorem test_a_sub_2 :
    (nextOf (runOne .i8080 [0x90] (fun s => { s with regs.a := 0x05, regs.b := 0x10 }))).map
      (fun t => (t.regs.a, t.pc, t.flags)) = some (0xF5, 0x0101, flagBits true false true true true) := by
  decide

theorem test_a_sub_4 :
    (nextOf (runOne .i8080 [0x96]
      (fun s => ({ s with regs.a := 0x50, regs.h := 0x30, regs.l := 0x00 }).poke 0x3000 0x50))).map
      (fun t => (t.regs.a, t.pc, t.flags)) = some (0x00, 0x0101, flagBits false true true true false) := by
  decide

theorem test_a_sbb_1 :
    (nextOf (runOne .i8080 [0x98] (fun s => { s with regs.a := 0x00, regs.b := 0xFF, flags.cy := true }))).map
      (fun t => (t.pc, t.flags)) = some (0x0101, flagBits false true false true true) := by
  decide

theorem test_a_sbb_4 :
    (nextOf (runOne .i8080 [0x9E]
      (fun s => ({ s with regs.a := 0x00, regs.h := 0x30, regs.l := 0x00, flags.cy := true }).poke 0x3000 0x00))).map
      (fun t => (t.regs.a, t.pc, t.flags)) = some (0xFF, 0x0101, flagBits true false false true true) := by
  decide

theorem test_a_sui_1 :
    (nextOf (runOne .i8080 [0xD6, 0xFF] (fun s => { s with regs.a := 0x00 }))).map
      (fun t => (t.regs.a, t.pc, t.flags)) = some (0x01, 0x0102, flagBits false false false false true) := by
  decide

theorem test_a_sbi_1 :
    (nextOf (runOne .i8080 [0xDE, 0x05] (fun s => { s with regs.a := 0x05, flags.cy := true }))).map
      (fun t => (t.regs.a, t.pc, t.flags)) = some (0xFF, 0x0102, flagBits true false false true true) := by
  decide

theorem test_a_inr_2 :
    (nextOf (runOne .i8080 [0x04] (fun s => { s with regs.b := 0x0F, flags.cy := true }))).map
      (fun t => (t.regs.b, t.pc, t.flags)) = some (0x10, 0x0101, flagBits false false true false true) := by
  decide

theorem test_a_inr_4 :
    (nextOf (runOne .i8080 [0x34] (fun s => ({ s with regs.h := 0x30, regs.l := 0x00 }).poke 0x3000 0x99))).map
      (fun t => (t.pc, t.read8 0x3000, t.flags)) = some (0x0101, 0x9A, flagBits true false false true false) := by
  decide

theorem test_a_dcr_3 :
    (nextOf (runOne .i8080 [0x05] (fun s => { s with regs.b := 0x10 }))).map
      (fun t => (t.regs.b, t.pc, t.flags)) = some (0x0F, 0x0101, flagBits false false false true false) := by
  decide

theorem test_a_dcr_5 :
    (nextOf (runOne .i8080 [0x35] (fun s => ({ s with regs.h := 0x30, regs.l := 0x00 }).poke 0x3000 0x01))).map
      (fun t => (t.pc, t.read8 0x3000, t.flags)) = some (0x0101, 0x00, flagBits false true true true false) := by
  decide

theorem test_a_inx_3 :
    (nextOf (runOne .i8080 [0x03] (fun s => { s with regs.b := 0x00, regs.c := 0xFF }))).map
      (fun t => (t.regs.b, t.regs.c, t.pc)) = some (0x01, 0x00, 0x0101) := by
  decide

theorem test_a_dcx_3 :
    (nextOf (runOne .i8080 [0x1B] (fun s => { s with regs.d := 0x09, regs.e := 0x00 }))).map
      (fun t => (t.regs.d, t.regs.e, t.pc)) = some (0x08, 0xFF, 0x0101) := by
  decide

theorem test_a_dad_1 :
    (nextOf (runOne .i8080 [0x09]
      (fun s => { s with
        regs.h := 0xA1, regs.l := 0x7B, regs.b := 0x33
        regs.c := 0x9F, flags.z := true, flags.s := true }))).map
      (fun t => (t.regs.h, t.regs.l, t.pc, t.flags)) =
      some (0xD5, 0x1A, 0x0101, flagBits true true false false false) := by
  decide

theorem test_a_dad_3 :
    (nextOf (runOne .i8080 [0x29] (fun s => { s with regs.h := 0x80, regs.l := 0x00 }))).map
      (fun t => (t.regs.h, t.pc, t.flags)) = some (0x00, 0x0101, flagBits false false false false true) := by
  decide

theorem test_a_daa_1 :
    (nextOf (runOne .i8080 [0x27] (fun s => { s with regs.a := 0x9B }))).map
      (fun t => (t.regs.a, t.pc, t.flags)) = some (0x01, 0x0101, flagBits false false true false true) := by
  decide

theorem test_a_daa_6 :
    (nextOf (runOne .i8080 [0x27] (fun s => { s with regs.a := 0xFA }))).map
      (fun t => (t.regs.a, t.pc, t.flags)) = some (0x60, 0x0101, flagBits false false true true true) := by
  decide

theorem test_x_ana_1 :
    (nextOf (runOne .i8080 [0xA0] (fun s => { s with regs.a := 0xF0, regs.b := 0x0F, flags.cy := true }))).map
      (fun t => (t.regs.a, t.pc, t.flags.s, t.flags.z, t.flags.p, t.flags.cy)) =
      some (0x00, 0x0101, false, true, true, false) := by
  decide

theorem test_x_ani_1 :
    (nextOf (runOne .i8080 [0xE6, 0x80] (fun s => { s with regs.a := 0x7F, flags.cy := true }))).map
      (fun t => (t.regs.a, t.pc, t.flags.s, t.flags.z, t.flags.p, t.flags.cy)) =
      some (0x00, 0x0102, false, true, true, false) := by
  decide

theorem test_x_ora_1 :
    (nextOf (runOne .i8080 [0xB2]
      (fun s => { s with regs.a := 0x41, regs.d := 0x08, flags.cy := true, flags.ac := true }))).map
      (fun t => (t.regs.a, t.pc, t.flags)) = some (0x49, 0x0101, flagBits false false false false false) := by
  decide

theorem test_x_ori_1 :
    (nextOf (runOne .i8080 [0xF6, 0x41] (fun s => { s with regs.a := 0x00 }))).map
      (fun t => (t.regs.a, t.pc, t.flags)) = some (0x41, 0x0102, flagBits false false false true false) := by
  decide

theorem test_x_xra_2 :
    (nextOf (runOne .i8080 [0xA8] (fun s => { s with regs.a := 0xFF, regs.b := 0x35 }))).map
      (fun t => (t.regs.a, t.pc, t.flags)) = some (0xCA, 0x0101, flagBits true false false true false) := by
  decide

theorem test_x_xri_1 :
    (nextOf (runOne .i8080 [0xEE, 0xC0] (fun s => { s with regs.a := 0x4C }))).map
      (fun t => (t.regs.a, t.pc, t.flags)) = some (0x8C, 0x0102, flagBits true false false false false) := by
  decide

theorem test_x_cmp_2 :
    (nextOf (runOne .i8080 [0xB8] (fun s => { s with regs.a := 0x02, regs.b := 0x05 }))).map
      (fun t => (t.pc, t.flags)) = some (0x0101, flagBits true false false false true) := by
  decide

theorem test_x_cmp_4 :
    (nextOf (runOne .i8080 [0xBE]
      (fun s => ({ s with regs.a := 0x00, regs.h := 0x30, regs.l := 0x00 }).poke 0x3000 0x01))).map
      (fun t => (t.pc, t.flags)) = some (0x0101, flagBits true false false true true) := by
  decide

theorem test_x_cpi_2 :
    (nextOf (runOne .i8080 [0xFE, 0x43] (fun s => { s with regs.a := 0x41 }))).map (fun t => (t.pc, t.flags)) =
      some (0x0102, flagBits true false false false true) := by
  decide

theorem test_x_cma_1 :
    (nextOf (runOne .i8080 [0x2F] (fun s => { s with regs.a := 0x00, flags.z := true }))).map
      (fun t => (t.regs.a, t.pc, t.flags.z)) = some (0xFF, 0x0101, true) := by
  decide

theorem test_x_cmc_2 :
    (nextOf (runOne .i8080 [0x3F] (fun s => { s with flags.cy := true }))).map (fun t => (t.pc, t.flags)) =
      some (0x0101, flagBits false false false false false) := by
  decide

theorem test_x_stc_1 :
    (nextOf (runOne .i8080 [0x37] (fun s => { s with flags.cy := false }))).map (fun t => (t.pc, t.flags)) =
      some (0x0101, flagBits false false false false true) := by
  decide

theorem test_x_rlc_1 :
    (nextOf (runOne .i8080 [0x07] (fun s => { s with regs.a := 0x80 }))).map
      (fun t => (t.regs.a, t.pc, t.flags)) = some (0x01, 0x0101, flagBits false false false false true) := by
  decide

theorem test_x_rrc_1 :
    (nextOf (runOne .i8080 [0x0F] (fun s => { s with regs.a := 0x01 }))).map
      (fun t => (t.regs.a, t.pc, t.flags)) = some (0x80, 0x0101, flagBits false false false false true) := by
  decide

theorem test_x_ral_2 :
    (nextOf (runOne .i8080 [0x17] (fun s => { s with regs.a := 0x55, flags.cy := true }))).map
      (fun t => (t.regs.a, t.pc, t.flags)) = some (0xAB, 0x0101, flagBits false false false false false) := by
  decide

theorem test_x_rar_1 :
    (nextOf (runOne .i8080 [0x1F] (fun s => { s with regs.a := 0x01, flags.cy := true }))).map
      (fun t => (t.regs.a, t.pc, t.flags)) = some (0x80, 0x0101, flagBits false false false false true) := by
  decide

theorem test_b_jmp_2 :
    (nextOf (runOne .i8080 [0xC3, 0x34, 0x12] (fun s => { s with pc := 0xFFFE }))).map (fun t => t.pc) =
      some 0x1234 := by
  decide

theorem test_b_call_2 :
    (nextOf (runOne .i8080 [0xCD, 0x00, 0x02] (fun s => { s with sp := 0x0001 }))).map
      (fun t => (t.sp, t.pc, t.read8 0x0000, t.read8 0xFFFF)) = some (0xFFFF, 0x0200, 0x01, 0x03) := by
  decide

theorem test_b_ret_2 :
    (nextOf (runOne .i8080 [0xC9] (fun s => pokes { s with sp := 0xFFFF } 0xFFFF [0x34, 0x12]))).map
      (fun t => (t.sp, t.pc)) = some (0x0001, 0x1234) := by
  decide

theorem test_b_rst_5 :
    (nextOf (runOne .i8080 [0xEF] (fun s => { s with pc := 0x1234 }))).map
      (fun t => (t.sp, t.pc, t.read8 0x23FE, t.read8 0x23FF)) = some (0x23FE, 0x0028, 0x35, 0x12) := by
  decide

theorem test_b_pchl_1 :
    (nextOf (runOne .i8080 [0xE9] (fun s => { s with regs.h := 0x41, regs.l := 0x3E }))).map (fun t => t.pc) =
      some 0x413E := by
  decide

theorem test_k_push_1 :
    (nextOf (runOne .i8080 [0xC5] (fun s => { s with regs.b := 0x2A, regs.c := 0x4C, sp := 0x9AAF }))).map
      (fun t => (t.sp, t.pc, t.read8 0x9AAD, t.read8 0x9AAE)) = some (0x9AAD, 0x0101, 0x4C, 0x2A) := by
  decide

theorem test_k_push_2 :
    (nextOf (runOne .i8080 [0xF5]
      (fun s => { s with
        regs.a := 0x1F, flags.s := false, flags.z := true
        flags.ac := true, flags.p := true, flags.cy := true }))).map
      (fun t => (t.sp, t.pc, t.read8 0x23FE, t.read8 0x23FF)) = some (0x23FE, 0x0101, 0x57, 0x1F) := by
  decide

theorem test_k_pop_2 :
    (nextOf (runOne .i8080 [0xF1] (fun s => pokes { s with sp := 0x2000 } 0x2000 [0xFF, 0x80]))).map
      (fun t => (t.regs.a, t.sp, t.pc, t.flags)) = some (0x80, 0x2002, 0x0101, flagBits true true true true true) := by
  decide

theorem test_k_pop_5 :
    (nextOf (runOne .i8080 [0xE1] (fun s => pokes { s with sp := 0xFFFF } 0xFFFF [0x34, 0x12]))).map
      (fun t => (t.regs.h, t.regs.l, t.sp, t.pc)) = some (0x12, 0x34, 0x0001, 0x0101) := by
  decide

theorem test_k_xthl_1 :
    (nextOf (runOne .i8080 [0xE3]
      (fun s => pokes { s with sp := 0x10AD, regs.h := 0x0B, regs.l := 0x3C } 0x10AD [0xF0, 0x0D]))).map
      (fun t => (t.regs.h, t.regs.l, t.pc, t.read8 0x10AD, t.read8 0x10AE)) =
      some (0x0D, 0xF0, 0x0101, 0x3C, 0x0B) := by
  decide

theorem test_k_sphl_1 :
    (nextOf (runOne .i8080 [0xF9] (fun s => { s with regs.h := 0x50, regs.l := 0xFF }))).map
      (fun t => (t.sp, t.pc)) = some (0x50FF, 0x0101) := by
  decide

theorem test_k_in_1 :
    (nextOf (runOne .i8080 [0xDB, 0x10]
      (fun s => { s with flags.z := true, env := [{ Inputs.quiet with portIn := some 0x5A }] }))).map
      (fun t => (t.regs.a, t.pc, t.flags.z)) = some (0x5A, 0x0102, true) := by
  decide

theorem test_k_out_1 :
    (nextOf (runOne .i8080 [0xD3, 0x01] (fun s => { s with regs.a := 0x41 }))).map (fun t => (t.pc, t.io)) =
      some (0x0102, [.portWrite 0x01 0x41]) := by
  decide

theorem test_k_nop_1 :
    (nextOf (runOne .i8080 [0x00] id)).map (fun t => t.pc) = some 0x0101 := by
  decide

theorem test_k_hlt_1 :
    (nextOf (runOne .i8080 [0x76] (fun s => { s with pc := 0x0010 }))).map (fun t => (t.pc, t.ctl.halted)) =
      some (0x0011, true) := by
  decide

theorem test_k_ei_1 :
    (nextOf (runOne .i8080 [0xFB] id)).map (fun t => (t.pc, t.ctl.eiPending, t.ctl.intInhibit)) =
      some (0x0101, true, true) := by
  decide

theorem test_k_di_2 :
    (nextOf (runOne .i8080 [0xF3] (fun s => { s with ctl.inte := false, ctl.eiPending := true }))).map
      (fun t => (t.pc, t.ctl.eiPending, t.ctl.intInhibit)) = some (0x0101, false, true) := by
  decide

theorem test_k_rim_2 :
    (nextOf (runOne .i8085 [0x20]
      (fun s => { s with
        ext.r75 := true, ext.m75 := true, ext.m65 := true, ext.m55 := true
        env := [{ Inputs.quiet with sid := some true, rst55 := true }] }))).map
      (fun t => (t.regs.a, t.pc)) = some (0xD7, 0x0101) := by
  decide

theorem test_k_sim_1 :
    (nextOf (runOne .i8085 [0x30]
      (fun s => { s with regs.a := 0x1C, ext.r75 := true, ext.m65 := true, ext.m55 := true, ext.sod := true }))).map
      (fun t => (t.pc, t.ext.m75, t.ext.m65, t.ext.m55, t.ext.r75)) = some (0x0101, true, false, false, false) := by
  decide

theorem test_k_sim_5 :
    (nextOf (runOne .i8085 [0x30]
      (fun s => { s with regs.a := 0x28, ext.m75 := true, ext.m65 := true, ext.m55 := true }))).map
      (fun t => (t.pc, t.ext.m75, t.ext.m65, t.ext.m55)) = some (0x0101, false, false, false) := by
  decide

theorem test_k_rim_3_k_sim_6 :
    isUndefined (runOne .i8080 [0x20] (id)) 0x20 = true ∧
    isUndefined (runOne .i8080 [0x30] (fun s => { s with regs.a := 0x08 })) 0x30 = true := by
  decide

theorem test_k_und_cb :
    isUndefined (runOne .i8080 [0xCB] (id)) 0xCB = true := by
  decide

theorem test_b_jnz :
    (nextOf (runOne .i8080 [0xC2, 0x00, 0x02] (fun s => { s with flags.z := false }))).map (fun t => t.pc) =
      some 0x0200 ∧
    (nextOf (runOne .i8080 [0xC2, 0x00, 0x02] (fun s => { s with flags.z := true }))).map (fun t => t.pc) =
      some 0x0103 := by
  decide

theorem test_b_jz :
    (nextOf (runOne .i8080 [0xCA, 0x00, 0x02] (fun s => { s with flags.z := true }))).map (fun t => t.pc) =
      some 0x0200 ∧
    (nextOf (runOne .i8080 [0xCA, 0x00, 0x02] (fun s => { s with flags.z := false }))).map (fun t => t.pc) =
      some 0x0103 := by
  decide

theorem test_b_jnc :
    (nextOf (runOne .i8080 [0xD2, 0x00, 0x02] (fun s => { s with flags.cy := false }))).map (fun t => t.pc) =
      some 0x0200 ∧
    (nextOf (runOne .i8080 [0xD2, 0x00, 0x02] (fun s => { s with flags.cy := true }))).map (fun t => t.pc) =
      some 0x0103 := by
  decide

theorem test_b_jc :
    (nextOf (runOne .i8080 [0xDA, 0x00, 0x02] (fun s => { s with flags.cy := true }))).map (fun t => t.pc) =
      some 0x0200 ∧
    (nextOf (runOne .i8080 [0xDA, 0x00, 0x02] (fun s => { s with flags.cy := false }))).map (fun t => t.pc) =
      some 0x0103 := by
  decide

theorem test_b_jpo :
    (nextOf (runOne .i8080 [0xE2, 0x00, 0x02] (fun s => { s with flags.p := false }))).map (fun t => t.pc) =
      some 0x0200 ∧
    (nextOf (runOne .i8080 [0xE2, 0x00, 0x02] (fun s => { s with flags.p := true }))).map (fun t => t.pc) =
      some 0x0103 := by
  decide

theorem test_b_jpe :
    (nextOf (runOne .i8080 [0xEA, 0x00, 0x02] (fun s => { s with flags.p := true }))).map (fun t => t.pc) =
      some 0x0200 ∧
    (nextOf (runOne .i8080 [0xEA, 0x00, 0x02] (fun s => { s with flags.p := false }))).map (fun t => t.pc) =
      some 0x0103 := by
  decide

theorem test_b_jp :
    (nextOf (runOne .i8080 [0xF2, 0x00, 0x02] (fun s => { s with flags.s := false }))).map (fun t => t.pc) =
      some 0x0200 ∧
    (nextOf (runOne .i8080 [0xF2, 0x00, 0x02] (fun s => { s with flags.s := true }))).map (fun t => t.pc) =
      some 0x0103 := by
  decide

theorem test_b_jm :
    (nextOf (runOne .i8080 [0xFA, 0x00, 0x02] (fun s => { s with flags.s := true }))).map (fun t => t.pc) =
      some 0x0200 ∧
    (nextOf (runOne .i8080 [0xFA, 0x00, 0x02] (fun s => { s with flags.s := false }))).map (fun t => t.pc) =
      some 0x0103 := by
  decide

theorem test_b_cnz :
    (nextOf (runOne .i8080 [0xC4, 0x00, 0x02] (fun s => { s with flags.z := false }))).map
      (fun t => (t.sp, t.pc, t.read8 0x23FE, t.read8 0x23FF)) = some (0x23FE, 0x0200, 0x03, 0x01) ∧
    (nextOf (runOne .i8080 [0xC4, 0x00, 0x02] (fun s => { s with flags.z := true }))).map (fun t => t.pc) =
      some 0x0103 := by
  decide

theorem test_b_cz :
    (nextOf (runOne .i8080 [0xCC, 0x00, 0x02] (fun s => { s with flags.z := true }))).map
      (fun t => (t.sp, t.pc, t.read8 0x23FE, t.read8 0x23FF)) = some (0x23FE, 0x0200, 0x03, 0x01) ∧
    (nextOf (runOne .i8080 [0xCC, 0x00, 0x02] (fun s => { s with flags.z := false }))).map (fun t => t.pc) =
      some 0x0103 := by
  decide

theorem test_b_cnc :
    (nextOf (runOne .i8080 [0xD4, 0x00, 0x02] (fun s => { s with flags.cy := false }))).map
      (fun t => (t.sp, t.pc, t.read8 0x23FE, t.read8 0x23FF)) = some (0x23FE, 0x0200, 0x03, 0x01) ∧
    (nextOf (runOne .i8080 [0xD4, 0x00, 0x02] (fun s => { s with flags.cy := true }))).map (fun t => t.pc) =
      some 0x0103 := by
  decide

theorem test_b_cc :
    (nextOf (runOne .i8080 [0xDC, 0x00, 0x02] (fun s => { s with flags.cy := true }))).map
      (fun t => (t.sp, t.pc, t.read8 0x23FE, t.read8 0x23FF)) = some (0x23FE, 0x0200, 0x03, 0x01) ∧
    (nextOf (runOne .i8080 [0xDC, 0x00, 0x02] (fun s => { s with flags.cy := false }))).map (fun t => t.pc) =
      some 0x0103 := by
  decide

theorem test_b_cpo :
    (nextOf (runOne .i8080 [0xE4, 0x00, 0x02] (fun s => { s with flags.p := false }))).map
      (fun t => (t.sp, t.pc, t.read8 0x23FE, t.read8 0x23FF)) = some (0x23FE, 0x0200, 0x03, 0x01) ∧
    (nextOf (runOne .i8080 [0xE4, 0x00, 0x02] (fun s => { s with flags.p := true }))).map (fun t => t.pc) =
      some 0x0103 := by
  decide

theorem test_b_cpe :
    (nextOf (runOne .i8080 [0xEC, 0x00, 0x02] (fun s => { s with flags.p := true }))).map
      (fun t => (t.sp, t.pc, t.read8 0x23FE, t.read8 0x23FF)) = some (0x23FE, 0x0200, 0x03, 0x01) ∧
    (nextOf (runOne .i8080 [0xEC, 0x00, 0x02] (fun s => { s with flags.p := false }))).map (fun t => t.pc) =
      some 0x0103 := by
  decide

theorem test_b_cp :
    (nextOf (runOne .i8080 [0xF4, 0x00, 0x02] (fun s => { s with flags.s := false }))).map
      (fun t => (t.sp, t.pc, t.read8 0x23FE, t.read8 0x23FF)) = some (0x23FE, 0x0200, 0x03, 0x01) ∧
    (nextOf (runOne .i8080 [0xF4, 0x00, 0x02] (fun s => { s with flags.s := true }))).map (fun t => t.pc) =
      some 0x0103 := by
  decide

theorem test_b_cm :
    (nextOf (runOne .i8080 [0xFC, 0x00, 0x02] (fun s => { s with flags.s := true }))).map
      (fun t => (t.sp, t.pc, t.read8 0x23FE, t.read8 0x23FF)) = some (0x23FE, 0x0200, 0x03, 0x01) ∧
    (nextOf (runOne .i8080 [0xFC, 0x00, 0x02] (fun s => { s with flags.s := false }))).map (fun t => t.pc) =
      some 0x0103 := by
  decide

theorem test_b_rnz :
    (nextOf (runOne .i8080 [0xC0]
      (fun s => pokes { s with flags.z := false, sp := 0x23FE } 0x23FE [0x03, 0x01]))).map
      (fun t => (t.sp, t.pc)) = some (0x2400, 0x0103) ∧
    (nextOf (runOne .i8080 [0xC0]
      (fun s => pokes { s with flags.z := true, sp := 0x23FE } 0x23FE [0x03, 0x01]))).map (fun t => t.pc) =
      some 0x0101 := by
  decide

theorem test_b_rz :
    (nextOf (runOne .i8080 [0xC8]
      (fun s => pokes { s with flags.z := true, sp := 0x23FE } 0x23FE [0x03, 0x01]))).map
      (fun t => (t.sp, t.pc)) = some (0x2400, 0x0103) ∧
    (nextOf (runOne .i8080 [0xC8]
      (fun s => pokes { s with flags.z := false, sp := 0x23FE } 0x23FE [0x03, 0x01]))).map (fun t => t.pc) =
      some 0x0101 := by
  decide

theorem test_b_rnc :
    (nextOf (runOne .i8080 [0xD0]
      (fun s => pokes { s with flags.cy := false, sp := 0x23FE } 0x23FE [0x03, 0x01]))).map
      (fun t => (t.sp, t.pc)) = some (0x2400, 0x0103) ∧
    (nextOf (runOne .i8080 [0xD0]
      (fun s => pokes { s with flags.cy := true, sp := 0x23FE } 0x23FE [0x03, 0x01]))).map (fun t => t.pc) =
      some 0x0101 := by
  decide

theorem test_b_rc :
    (nextOf (runOne .i8080 [0xD8]
      (fun s => pokes { s with flags.cy := true, sp := 0x23FE } 0x23FE [0x03, 0x01]))).map
      (fun t => (t.sp, t.pc)) = some (0x2400, 0x0103) ∧
    (nextOf (runOne .i8080 [0xD8]
      (fun s => pokes { s with flags.cy := false, sp := 0x23FE } 0x23FE [0x03, 0x01]))).map (fun t => t.pc) =
      some 0x0101 := by
  decide

theorem test_b_rpo :
    (nextOf (runOne .i8080 [0xE0]
      (fun s => pokes { s with flags.p := false, sp := 0x23FE } 0x23FE [0x03, 0x01]))).map
      (fun t => (t.sp, t.pc)) = some (0x2400, 0x0103) ∧
    (nextOf (runOne .i8080 [0xE0]
      (fun s => pokes { s with flags.p := true, sp := 0x23FE } 0x23FE [0x03, 0x01]))).map (fun t => t.pc) =
      some 0x0101 := by
  decide

theorem test_b_rpe :
    (nextOf (runOne .i8080 [0xE8]
      (fun s => pokes { s with flags.p := true, sp := 0x23FE } 0x23FE [0x03, 0x01]))).map
      (fun t => (t.sp, t.pc)) = some (0x2400, 0x0103) ∧
    (nextOf (runOne .i8080 [0xE8]
      (fun s => pokes { s with flags.p := false, sp := 0x23FE } 0x23FE [0x03, 0x01]))).map (fun t => t.pc) =
      some 0x0101 := by
  decide

theorem test_b_rp :
    (nextOf (runOne .i8080 [0xF0]
      (fun s => pokes { s with flags.s := false, sp := 0x23FE } 0x23FE [0x03, 0x01]))).map
      (fun t => (t.sp, t.pc)) = some (0x2400, 0x0103) ∧
    (nextOf (runOne .i8080 [0xF0]
      (fun s => pokes { s with flags.s := true, sp := 0x23FE } 0x23FE [0x03, 0x01]))).map (fun t => t.pc) =
      some 0x0101 := by
  decide

theorem test_b_rm :
    (nextOf (runOne .i8080 [0xF8]
      (fun s => pokes { s with flags.s := true, sp := 0x23FE } 0x23FE [0x03, 0x01]))).map
      (fun t => (t.sp, t.pc)) = some (0x2400, 0x0103) ∧
    (nextOf (runOne .i8080 [0xF8]
      (fun s => pokes { s with flags.s := false, sp := 0x23FE } 0x23FE [0x03, 0x01]))).map (fun t => t.pc) =
      some 0x0101 := by
  decide

/-- K-PUSH-4: on the 8085 the byte stored holds the five flags, whatever its three filler bits are. -/
theorem test_flag_byte_of_k_push_4 :
    ∀ filler : BitVec 3,
      Flags.ofByte ((flagBits true false true false true).toByte filler) = flagBits true false true false true := by
  decide

/-! ### Interrupts, the EI delay, the halt, RESET: steps of the sequences of section 3 -/

/-- Q1, step 2: the instruction after EI completes, INTE becomes 1; the request that stands is not accepted. -/
theorem test_q1_instruction_after_ei :
    (nextOf (runOne .i8080 [0x00] (fun s => { s with
      ctl.eiPending := true, ctl.intInhibit := true
      env := [{ Inputs.quiet with int := true, intByte := 0xFF }] }))).map (fun t => (t.pc, t.ctl)) =
        some (0x0101, { inte := true, eiPending := false, intInhibit := false, halted := false }) := by
  decide

/-- Q1, step 3: the request is accepted, RST 7 pushes the address of the instruction not executed. -/
theorem test_q1_accept :
    (nextOf (runOne .i8080 [] (fun s => { s with
      pc := 0x0102, ctl.inte := true
      env := [{ Inputs.quiet with int := true, intByte := 0xFF }] }))).map
        (fun t => (t.pc, t.sp, t.read8 0x23FE, t.read8 0x23FF, t.ctl.inte)) =
        some (0x0038, 0x23FE, 0x02, 0x01, false) := by
  decide

/-- Q5, step 4: an accepted request ends the halt. -/
theorem test_q5_accept_while_halted :
    (nextOf (runOne .i8080 [] (fun s => { s with
      pc := 0x0002, ctl.inte := true, ctl.halted := true
      env := [{ Inputs.quiet with int := true, intByte := 0xCF }] }))).map
        (fun t => (t.pc, t.read8 0x23FE, t.ctl.halted)) = some (0x0008, 0x02, false) := by
  decide

/-- Q6: halted with INTE 0, a request is not accepted. -/
theorem test_q6_halted_with_interrupts_off :
    (nextOf (runOne .i8080 [] (fun s => { s with
      ctl.halted := true, env := [{ Inputs.quiet with int := true, intByte := 0xFF }] }))).map
        (fun t => (t.pc, t.sp, t.ctl.halted)) = some (0x0100, 0x2400, true) := by
  decide

/-- Q7: a supplied INR A runs once, with pc not moved. -/
theorem test_q7_supplied_instruction :
    (nextOf (runOne .i8080 [] (fun s => { s with
      regs.a := 0x41, ctl.inte := true
      env := [{ Inputs.quiet with int := true, intByte := 0x3C }] }))).map (fun t => (t.pc, t.regs.a, t.ctl.inte)) =
        some (0x0100, 0x42, false) := by
  decide

/-- Q8: a supplied first byte of CALL is refused. -/
theorem test_q8_supplied_call :
    isBadInterrupt (runOne .i8080 [] (fun s => { s with
      ctl.inte := true, env := [{ Inputs.quiet with int := true, intByte := 0xCD }] })) 0xCD = true := by
  decide

/-- Q9, step 2: the edge on RST7.5 sets the flip-flop while it is masked, and the SIM unmasks it. -/
theorem test_q9_edge_while_masked :
    (nextOf (runOne .i8085 [0x30] (fun s => { s with
      regs.a := 0x0B, ctl.inte := true, ext.m75 := true, env := [{ Inputs.quiet with rst75 := true }] }))).map
        (fun t => (t.pc, t.ext)) =
        some (0x0101, { m75 := false, m65 := true, m55 := true, r75 := true, sod := false }) := by
  decide

/-- Q9, step 3: RST7.5 is accepted and its flip-flop reset. -/
theorem test_q9_accept :
    (nextOf (runOne .i8085 [] (fun s => { s with pc := 0x0102, ctl.inte := true, ext.r75 := true }))).map
      (fun t => (t.pc, t.sp, t.read8 0x23FE, t.read8 0x23FF, t.ext.r75)) =
      some (0x003C, 0x23FE, 0x02, 0x01, false) := by
  decide

/-- Q10, step 3: TRAP is accepted with INTE 0 and ends the halt. -/
theorem test_q10_trap :
    (nextOf (runOne .i8085 [] (fun s => { s with
      pc := 0x0101, ctl.halted := true, env := [{ Inputs.quiet with trap := true }] }))).map
        (fun t => (t.pc, t.sp, t.read8 0x23FE, t.ctl.halted)) = some (0x0024, 0x23FE, 0x01, false) := by
  decide

/-- Q11: RST6.5 before RST5.5 in the order of G8. -/
theorem test_q11_simultaneous_requests :
    (nextOf (runOne .i8085 [] (fun s => { s with
      ctl.inte := true, env := [{ Inputs.quiet with rst55 := true, rst65 := true }] }))).map
        (fun t => (t.pc, t.ctl.inte)) = some (0x0034, false) := by
  decide

/-- Q12, step 2: TRAP is not accepted right after an EI. -/
theorem test_q12_trap_after_ei :
    (nextOf (runOne .i8085 [0x00] (fun s => { s with
      ctl.eiPending := true, ctl.intInhibit := true, env := [{ Inputs.quiet with trap := true }] }))).map
        (fun t => (t.pc, t.ctl.inte)) = some (0x0101, true) := by
  decide

/-! ### A DMA agent between two byte accesses (R54, R61, R68) -/

/-- LHLD 3000H: a DMA write of both bytes between its two reads is seen by the second alone. -/
theorem test_torn_lhld :
    (nextOf (runOne .i8080 [0x2A, 0x00, 0x30] (fun s =>
      { pokes s 0x3000 [0x11, 0x22] with
        env := [{ Inputs.quiet with
          dma := [{ gap := .data2, addr := 0x3000, byte := 0x33 }, { gap := .data2, addr := 0x3001, byte := 0x44 }] }] }))).map
      (fun t => (t.regs.l, t.regs.h, t.read8 0x3000)) = some (0x11, 0x44, 0x33) := by
  decide

/-- INR M: a DMA write between the read and the write is lost. -/
theorem test_dma_within_inr :
    (nextOf (runOne .i8080 [0x34] (fun s =>
      { s.poke 0x3000 0x11 with
        regs.h := 0x30
        env := [{ Inputs.quiet with dma := [{ gap := .data2, addr := 0x3000, byte := 0x77 }] }] }))).map
      (fun t => t.read8 0x3000) = some 0x12 := by
  decide

/-- JMP: a DMA write between two fetches changes the instruction that runs. -/
theorem test_dma_within_fetch :
    (nextOf (runOne .i8080 [0xC3, 0x00, 0x02] (fun s =>
      { s with env := [{ Inputs.quiet with
          dma := [{ gap := .thirdByte, addr := 0x0102, byte := 0x05 },
                  { gap := .secondByte, addr := 0x0101, byte := 0x10 }] }] }))).map (fun t => t.pc) = some 0x0510 := by
  decide

/-- Q13: RESET of a halted processor. -/
theorem test_q13_reset :
    (nextOf (runOne .i8085 [] (fun s => { s with
      pc := 0x0101, ctl.halted := true, ext.r75 := true, env := [{ Inputs.quiet with reset := true }] }))).map
        (fun t => (t.pc, t.ctl.halted, t.ext.r75)) = some (0x0000, false, false) := by
  decide

/-! ### Witnesses: values that meet the hypotheses of each statement that has some -/

/-- The 8085 with ROM at 0x1000 to 0x1FFF and nothing at 0x2000 to 0x2FFF. -/
def mapped : State :=
  { start .i8085 with platform.memMap :=
      [{ first := 0x1000, last := 0x1FFF, kind := .rom }, { first := 0x2000, last := 0x2FFF, kind := .absent }] }

/-- Interrupts enabled, RST5.5 and RST7.5 unmasked, these inputs at the coming boundary. -/
def enabled (x : Inputs) : State := { facing x with ctl.inte := true }

theorem witness_DecodingAnEncodingGivesTheInstruction :
    (Instr.shld 0x010A).wellFormed .i8080 = true ∧ (Instr.mov .m .a).wellFormed .i8080 = true ∧
      Instr.rim.wellFormed .i8085 = true := by
  decide

theorem witness_DecodedBytesAreTheInstructionsEncoding :
    decode .i8085 [0x32, 0xB3, 0x05, 0x76] = .ok (.sta 0x05B3, [0x76]) := by
  decide

theorem witness_UndefinedFirstBytesAreRefusedAndNoOthers :
    let bad : Byte → Variant → Prop := fun b v =>
      b ∈ ([0x08, 0x10, 0x18, 0x28, 0x38, 0xCB, 0xD9, 0xDD, 0xED, 0xFD] : List Byte) ∨
        (v = .i8080 ∧ (b = 0x20 ∨ b = 0x30))
    bad 0xCB .i8085 ∧ bad 0x20 .i8080 ∧ bad 0x30 .i8080 ∧ ¬ bad 0x20 .i8085 ∧ ¬ bad 0xFF .i8080 ∧
      2 ≤ ([0x00, 0x00] : List Byte).length := by
  decide

/-- A DMA write at 0x3000 between the first and the second data access of the step. -/
def sharing : State := facing { Inputs.quiet with dma := [{ gap := .data2, addr := 0x3000, byte := 0x99 }] }

theorem witness_StoresAreReadBackLowByteFirst :
    (DmaTouches sharing .data2 0x3000 ∧ ¬ DmaTouches sharing .data2 0x3001 ∧ ¬ DmaTouches sharing .boundary 0x3000 ∧
      sharing.kindAt 0x3000 = .ram ∧ sharing.kindAt 0x3001 = .ram ∧ Memory.wf sharing.mem = true) ∧
    Memory.wf (mapped.poke 0xFFFF 0x12).mem = true ∧ mapped.kindAt 0xFFFF = .ram ∧
      mapped.kindAt (0xFFFF + 1) = .ram ∧ mapped.kindAt 0x0FFF = .ram ∧ mapped.kindAt 0x1000 ≠ .ram ∧
      mapped.kindAt 0x2FFF ≠ .ram ∧ mapped.kindAt 0x3000 = .ram := by
  unfold DmaTouches
  decide

/-- The canonical form of memory: the one hypothesis of PushAndPopMoveTwoBytes, IncrementAndDecrementKeepCarry,
DirectStoresWriteTheAddressedBytes, RestartPushesAndGoesToEightTimesItsCode and ExchangeWithTopOfStack. With nothing
listed, and with bytes listed at both ends of memory. -/
theorem witness_canonical_memory :
    Memory.wf (start .i8080).mem = true ∧ Memory.wf (pokes (start .i8085) 0xFFFF [0x34, 0x12]).mem = true := by
  decide

theorem witness_SignZeroAndParityFollowTheResult :
    (resultOf (start .i8080) (start .i8080) (.add .b)).isSome = true ∧
      (resultOf (start .i8080) (start .i8080) (.inr .m)).isSome = true ∧
      (resultOf (start .i8080) (start .i8080) .daa).isSome = true ∧
      (resultOf (start .i8080) (start .i8080) (.cpi 0xFF)).isSome = true := by
  decide

theorem witness_DecimalAdjustAfterAdditionGivesTheDecimalSum :
    (IsDecimal { start .i8080 with regs.a := 0x99, regs.b := 0x99 }.regs.a ∧
      IsDecimal ({ start .i8080 with regs.a := 0x99, regs.b := 0x99 }.readOperand .b)) ∧
    (IsDecimal (start .i8080).regs.a ∧ IsDecimal ((start .i8080).readOperand .m)) := by
  unfold IsDecimal
  decide

theorem witness_MovesLoadTheDestinationRegister : Operand8.b ≠ .m ∧ Operand8.a ≠ .m := by
  decide

theorem witness_IndirectStoresWriteOneByte : Memory.wf (start .i8080).mem = true ∧ Operand8.h ≠ .m := by
  decide

/-- Every condition holds in one of these two states and fails in the other. -/
theorem witness_CallsPushTheNextAddressWhenTheConditionHolds :
    let s0 := { start .i8080 with flags := flagBits false false false false false }
    let s1 := { start .i8080 with flags := flagBits true true true true true }
    Memory.wf s0.mem = true ∧ Memory.wf s1.mem = true ∧
      (s0.flags.z, s0.flags.cy, s0.flags.p, s0.flags.s) = (false, false, false, false) ∧
      (s1.flags.z, s1.flags.cy, s1.flags.p, s1.flags.s) = (true, true, true, true) := by
  decide

theorem witness_ReturnUndoesCall :
    (Memory.wf (start .i8080).mem = true ∧ StackRoom (start .i8080) ∧ StackRoom { mapped with sp := 0x1000 } ∧
      StackRoom { mapped with sp := 0x0001 }) ∧
    (StackRoom { sharing with sp := 0x3000 } ∧ ¬ DmaTouches { sharing with sp := 0x3000 } .data2 (0x3000 - 1) ∧
      ¬ DmaTouches { sharing with sp := 0x3000 } .data2 (0x3000 - 2)) := by
  unfold StackRoom DmaTouches
  decide

theorem witness_PushStoresThePairOrThePsw :
    Memory.wf (start .i8080).mem = true ∧ (start .i8080).variant = .i8080 := by
  decide

theorem witness_SaveAndRestoreSequenceRestoresEverything :
    Memory.wf sharing.mem = true ∧
      ∀ k : Nat, 1 ≤ k → k ≤ 8 →
        State.kindAt { sharing with sp := 0x0004 } ((0x0004 : Word) - BitVec.ofNat 16 k) = .ram ∧
          ¬ DmaTouches { sharing with sp := 0x0004 } .data2 ((0x0004 : Word) - BitVec.ofNat 16 k) := by
  unfold DmaTouches
  refine ⟨by decide, fun k h1 h8 => ?_⟩
  interval_cases k <;> decide

theorem witness_InputAndOutputMakeOnePortAccess :
    (facing { Inputs.quiet with portIn := some 0x5A }).now.portIn = some 0x5A ∧ (start .i8080).now.portIn = none := by
  decide

theorem witness_ReadInterruptMask :
    (facing { Inputs.quiet with sid := some true }).variant = .i8085 ∧
      (facing { Inputs.quiet with sid := some true }).now.sid = some true ∧ (start .i8080).variant = .i8080 := by
  decide

theorem witness_SetInterruptMask :
    let s0 := { start .i8085 with regs.a := 0x00 }
    let s1 := { start .i8085 with regs.a := 0x58 }
    s0.variant = .i8085 ∧ s1.variant = .i8085 ∧ (start .i8080).variant = .i8080 ∧
      (s0.regs.a.getLsbD 3, s0.regs.a.getLsbD 4, s0.regs.a.getLsbD 6) = (false, false, false) ∧
      (s1.regs.a.getLsbD 3, s1.regs.a.getLsbD 4, s1.regs.a.getLsbD 6) = (true, true, true) := by
  decide

theorem witness_WellFormedInstructionsComplete :
    Instr.rim.wellFormed (start .i8085).variant = true ∧ Instr.rim.wellFormed (start .i8080).variant = false ∧
      (Instr.mov .m .m).wellFormed (start .i8085).variant = false := by
  decide

theorem witness_OnlyTheListedInstructionsWriteFlags :
    (∃ t, exec (.lda 0xFFFF) (start .i8080) = .next t ∧ writesFlags (.lda 0xFFFF) = false) ∧
      (∃ t, exec (.dad .sp) (start .i8080) = .next t ∧ writesCarryOnly (.dad .sp) = true) ∧
      ∃ t, exec (.inr .m) (start .i8080) = .next t :=
  ⟨⟨_, rfl, rfl⟩, ⟨_, rfl, rfl⟩, ⟨_, rfl⟩⟩

theorem witness_ControlStateFrameOfEveryInstruction :
    ∃ t, exec .ral (start .i8080) = .next t ∧ Instr.ral ≠ .di ∧ Instr.ral ≠ .ei ∧ Instr.ral ≠ .hlt ∧
      Instr.ral ≠ .sim ∧ ∀ port, Instr.ral ≠ .inPort port ∧ Instr.ral ≠ .outPort port :=
  ⟨_, rfl, by decide, by decide, by decide, by decide, fun _ => ⟨nofun, nofun⟩⟩

theorem witness_MemoryStackPointerAndPcFrameOfEveryInstruction :
    ∃ t, exec (.add .m) (start .i8080) = .next t ∧ storesMemory (.add .m) = false ∧ movesSp (.add .m) = false ∧
      writesPc (.add .m) = false :=
  ⟨_, rfl, rfl, rfl, rfl⟩

theorem witness_StepRunsTheDecodedInstruction :
    let s := before .i8080 [0x3A, 0x00, 0x03] (fun s => { s with pc := 0xFFFE })
    s.now.reset = false ∧ s.taken = none ∧ s.ctl.halted = false ∧
      decode s.variant s.boundary.fetchBytes = .ok (.lda 0x0300, []) ∧
      ∃ u, exec (.lda 0x0300) (s.boundary.afterFetch (encode (.lda 0x0300)).length) = .next u :=
  ⟨by decide, by decide, by decide, by decide, _, rfl⟩

theorem witness_StepRunsTheEncodingAtPc :
    let s := before .i8080 [0x3A, 0x00, 0x03] (fun s => { s with pc := 0xFFFE })
    s.now.reset = false ∧ s.taken = none ∧ s.ctl.halted = false ∧ (Instr.lda 0x0300).wellFormed s.variant = true ∧
      ∀ k b, (encode (.lda 0x0300))[k]? = some b → (s.boundary.beforeByte k).fetch8 (s.pc + BitVec.ofNat 16 k) = b := by
  refine ⟨by decide, by decide, by decide, by decide, fun k b h => ?_⟩
  match k, h with
  | 0, h => cases h; decide
  | 1, h => cases h; decide
  | 2, h => cases h; decide

theorem witness_StepRefusesAnUndefinedFirstByte :
    let s := before .i8080 [0x30] id
    s.now.reset = false ∧ s.taken = none ∧ s.ctl.halted = false ∧ s.boundary.fetch8 s.pc = 0x30 ∧
      s.variant = .i8080 := by
  decide

theorem witness_ResetSignalForcesItsValuesInAnyState :
    let s := facing { Inputs.quiet with reset := true }
    s.now.reset = true ∧ s.variant = .i8085 := by
  decide

theorem witness_ARequestIsTakenExactlyWhenOneStands :
    let s0 := facing { Inputs.quiet with accept := false, trap := true }
    let s1 := facing { Inputs.quiet with trap := true }
    let s2 := facing { Inputs.quiet with int := true, rst65 := true }
    (s0.now.reset = false ∧ s0.now.accept = false) ∧
      (s1.now.reset = false ∧ s1.ctl.intInhibit = false ∧ s1.now.accept = true ∧ s1.taken = some .trap) ∧
      (s2.now.reset = false ∧ s2.ctl.intInhibit = false ∧ s2.now.accept = true ∧ s2.taken = none) := by
  decide

theorem witness_TheTakenRequestHasThePriority :
    let s := enabled { Inputs.quiet with rst65 := true, rst55 := true, int := true }
    s.platform.priority = [.trap, .rst75] ++ .rst65 :: [.rst55, .int] ∧
      IntSource.rst65 ∉ [IntSource.trap, IntSource.rst75] ∧ s.taken = some .rst65 := by
  decide

theorem witness_RestartInputsEnterAtTheirAddresses :
    Memory.wf (start .i8085).mem = true ∧
      (enabled { Inputs.quiet with rst55 := true }).taken = some .rst55 ∧
      (enabled { Inputs.quiet with rst65 := true }).taken = some .rst65 ∧
      (enabled { Inputs.quiet with rst75 := true }).taken = some .rst75 := by
  decide

theorem witness_TrapEntersWhateverTheEnablesAre :
    Memory.wf (start .i8085).mem = true ∧ (facing { Inputs.quiet with trap := true }).taken = some .trap ∧
      (enabled { Inputs.quiet with trap := true }).taken = some .trap := by
  decide

/-- The first clause with INR A, the second with RST 0 and RST 7, the third with a supplied CALL. -/
theorem witness_AcceptedIntRunsTheSuppliedInstruction :
    let s := fun b => enabled { Inputs.quiet with int := true, intByte := b }
    (s 0x3C).taken = some .int ∧ decode (s 0x3C).variant [(s 0x3C).now.intByte] = .ok (.inr .a, []) ∧
      (∃ u, exec (.inr .a) (s 0x3C).boundary.recognise = .next u) ∧
      ((s 0xC7).taken = some .int ∧ (s 0xC7).now.intByte.toNat = 0xC7 + 8 * (0 : BitVec 3).toNat) ∧
      ((s 0xFF).taken = some .int ∧ (s 0xFF).now.intByte.toNat = 0xC7 + 8 * (7 : BitVec 3).toNat ∧
        Memory.wf (s 0xFF).mem = true ∧ (s 0xFF).ctl.eiPending = false) ∧
      (s 0xCD).taken = some .int ∧ ∀ i, decode (s 0xCD).variant [(s 0xCD).now.intByte] ≠ .ok (i, []) :=
  ⟨by decide, by decide, ⟨_, rfl⟩, by decide, by decide, by decide, fun _ h => nomatch h⟩

/-- A SIM with bit 4 of A set, at a boundary with an edge. -/
theorem witness_FlipFlopHoldsUntilOneOfItsThreeResets :
    let s := before .i8085 [0x30] (fun s => { s with regs.a := 0x10, env := [{ Inputs.quiet with rst75 := true }] })
    (∃ t, step s = .next t) ∧ s.variant = .i8085 ∧ s.running = some .sim :=
  ⟨⟨_, rfl⟩, by decide, by decide⟩

theorem witness_HaltedIsSetByHltAndClearedByInterruptOrReset :
    (∃ t, step (before .i8080 [0x76] id) = .next t ∧ (before .i8080 [0x76] id).running = some .hlt) ∧
      let s := { start .i8080 with ctl.halted := true }
      s.ctl.halted = true ∧ s.taken = none ∧ s.now.reset = false :=
  ⟨⟨_, rfl, by decide⟩, by decide, by decide, by decide⟩

/-- A NOP after an EI, and an accepted INT that supplies a NOP. -/
theorem witness_CompletionRuleSetsTheInterruptBits :
    (∃ t, step (before .i8080 [0x00] (fun s => { s with ctl.eiPending := true, ctl.intInhibit := true })) = .next t ∧
      t.ctl.inte = true ∧
      (before .i8080 [0x00] (fun s => { s with ctl.eiPending := true, ctl.intInhibit := true })).running = some .nop) ∧
    ∃ t, step (enabled { Inputs.quiet with int := true, intByte := 0x00 }) = .next t ∧
      (enabled { Inputs.quiet with int := true, intByte := 0x00 }).running = some .nop :=
  ⟨⟨_, rfl, by decide, by decide⟩, ⟨_, rfl, by decide⟩⟩

/-- EI, then NOP. -/
theorem witness_NothingIsAcceptedRightAfterEiOrDi :
    ∃ t u, step (before .i8080 [0xFB, 0x00] id) = .next t ∧ (before .i8080 [0xFB, 0x00] id).running = some .ei ∧
      t.running = some .nop ∧ step t = .next u :=
  ⟨_, _, rfl, by decide, by decide, rfl⟩

theorem witness_EveryStepKeepsTheInvariant :
    (before .i8085 [0xFB] id).Inv ∧ ∃ t, step (before .i8085 [0xFB] id) = .next t :=
  ⟨⟨by decide, by decide, by decide⟩, _, rfl⟩

/-- The 8085 halted with interrupts off, while devices request but no TRAP does; and the 8080, for which a TRAP input
means nothing. With a TRAP to arrive the 8085 is not stopped. -/
theorem witness_HaltedWithInterruptsOffStaysHalted :
    let x := { Inputs.quiet with int := true, rst75 := true }
    let s := { start .i8085 with ctl.halted := true, env := [x, x] }
    let u := { start .i8080 with ctl.halted := true, env := [x, { x with trap := true }] }
    (s.stopped = true ∧ ∀ y ∈ s.env, y.reset = false) ∧ (u.stopped = true ∧ ∀ y ∈ u.env, y.reset = false) ∧
      State.stopped { start .i8085 with ctl.halted := true, env := [x, { x with trap := true }] } = false := by
  decide

end Sys2Proof.Tests
end

/-! ## Proofs: S, Z and P of a result -/

section
/-! What SetSZP (R8) and each flag computation built on it leave in S, Z and P, and from that what every instruction
of the arithmetic and logical groups leaves there. -/

namespace Sys2Proof.Machine

/-! ### One rule per flag computation -/

/-- The sum of the bits that `parityEven` takes is their count. -/
theorem oneBits_eq_sum (r : Byte) :
    oneBits r = (r.getLsbD 0).toNat + (r.getLsbD 1).toNat + (r.getLsbD 2).toNat + (r.getLsbD 3).toNat +
      (r.getLsbD 4).toNat + (r.getLsbD 5).toNat + (r.getLsbD 6).toNat + (r.getLsbD 7).toNat := by
  have bit : ∀ b : Bool, (if b = true then 1 else 0) = b.toNat := by decide
  simp only [oneBits, List.range_succ, List.range_zero, List.countP_append, List.countP_singleton,
    List.nil_append, bit]

/-- P as `parityEven` computes it says whether the number of one bits is even (R29). -/
theorem parityEven_iff (r : Byte) : parityEven r = true ↔ oneBits r % 2 = 0 := by
  rw [oneBits_eq_sum, parityEven, decide_eq_true_iff]

/-- S as SetSZP computes it (R27). -/
theorem signBit_iff (r : Byte) : r.getLsbD 7 = true ↔ 128 ≤ r.toNat := by
  rw [← BitVec.msb_eq_getLsbD_last (x := r), BitVec.msb_eq_decide, decide_eq_true_iff]

theorem Flags.setSZP_resultFlags (f : Flags) (r : Byte) : ResultFlags (f.setSZP r) r :=
  ⟨signBit_iff r, decide_eq_true_iff, parityEven_iff r⟩

/-- `ResultFlags` speaks of S, Z and P alone: CY and AC may be written afterwards. -/
theorem ResultFlags.with_carries {f : Flags} {r : Byte} (h : ResultFlags f r) (cy ac : Bool) :
    ResultFlags { f with cy := cy, ac := ac } r := h

theorem add8_resultFlags (a v : Byte) (c : Bool) (f : Flags) : ResultFlags (add8 a v c f).2 (add8 a v c f).1 :=
  (f.setSZP_resultFlags _).with_carries _ _

theorem sub8_resultFlags (a v : Byte) (b : Bool) (f : Flags) : ResultFlags (sub8 a v b f).2 (sub8 a v b f).1 :=
  (f.setSZP_resultFlags _).with_carries _ _

theorem daa8_resultFlags (a : Byte) (f : Flags) : ResultFlags (daa8 a f).2 (daa8 a f).1 :=
  (f.setSZP_resultFlags _).with_carries _ _

theorem Flags.logic_resultFlags (f : Flags) (r : Byte) (ac : Bool) : ResultFlags (f.logic r ac) r :=
  (f.setSZP_resultFlags r).with_carries _ _

theorem Flags.increment_resultFlags (f : Flags) (v : Byte) :
    ResultFlags (f.increment v) (BitVec.ofNat 8 (v.toNat + 1)) := by
  have hr : BitVec.ofNat 8 (v.toNat + 1) = v + 1 := by bv_omega
  rw [hr]
  exact (f.setSZP_resultFlags (v + 1)).with_carries _ _

theorem Flags.decrement_resultFlags (f : Flags) (v : Byte) :
    ResultFlags (f.decrement v) (BitVec.ofNat 8 (v.toNat + 255)) := by
  have hr : BitVec.ofNat 8 (v.toNat + 255) = v - 1 := by bv_omega
  rw [hr]
  exact (f.setSZP_resultFlags (v - 1)).with_carries _ _

/-- The three-term addition of R121, without a borrow, is the difference modulo 256. -/
theorem sub8_fst_of_no_borrow (a v : Byte) (f : Flags) :
    (sub8 a v false f).1 = BitVec.ofNat 8 (a.toNat + 256 - v.toNat) := by
  have hv := v.isLt
  have ht : a.toNat + (~~~v).toNat + (1 - false.toNat) = a.toNat + 256 - v.toNat := by
    rw [BitVec.toNat_not, Bool.toNat_false]
    omega
  exact congrArg (BitVec.ofNat 8) ht

theorem State.compareWithA_resultFlags (s : State) (v : Byte) :
    ResultFlags (s.compareWithA v).flags (BitVec.ofNat 8 (s.regs.a.toNat + 256 - v.toNat)) := by
  rw [State.compareWithA_flags, ← sub8_fst_of_no_borrow]
  exact sub8_resultFlags _ _ _ _

/-! ### Instructions that compute S, Z and P -/

/-- `i` completes from `s` and leaves S, Z and P as its own result says (R8). -/
def SetsResultFlags (s : State) (i : Instr) : Prop :=
  ∃ t r, exec i s = .next t ∧ resultOf s t i = some r ∧ ResultFlags t.flags r

/-- An instruction whose whole effect is a result for A with its flags. -/
theorem setsResultFlags_of_setAFlags {s : State} {i : Instr} {r : Byte × Flags}
    (hexec : exec i s = .next (s.setAFlags r)) (hresult : ∀ t, resultOf s t i = some t.regs.a)
    (hflags : ResultFlags r.2 r.1) : SetsResultFlags s i :=
  ⟨s.setAFlags r, r.1, hexec, hresult _, hflags⟩

/-- Settles O13, by cases on the instruction: the additions, the subtractions, DAA and the logical group leave their
result in A; INR, DCR and the compares have theirs from the state before; no other instruction has a result. -/
theorem signZeroAndParityFollowTheResult : Obligations.SignZeroAndParityFollowTheResult := by
  intro s i h
  show SetsResultFlags s i
  cases i with
  | add _ | adi _ | adc _ | aci _ => exact setsResultFlags_of_setAFlags rfl (fun _ => rfl) (add8_resultFlags ..)
  | sub _ | sui _ | sbb _ | sbi _ => exact setsResultFlags_of_setAFlags rfl (fun _ => rfl) (sub8_resultFlags ..)
  | daa => exact setsResultFlags_of_setAFlags rfl (fun _ => rfl) (daa8_resultFlags ..)
  | ana _ | ani _ | ora _ | ori _ | xra _ | xri _ =>
    exact setsResultFlags_of_setAFlags rfl (fun _ => rfl) (Flags.logic_resultFlags ..)
  | inr o => exact ⟨_, _, rfl, rfl, s.flags.increment_resultFlags (s.readOperand o)⟩
  | dcr o => exact ⟨_, _, rfl, rfl, s.flags.decrement_resultFlags (s.readOperand o)⟩
  | cmp o => exact ⟨_, _, rfl, rfl, s.compareWithA_resultFlags (s.readOperand o)⟩
  | cpi data => exact ⟨_, _, rfl, rfl, s.compareWithA_resultFlags data⟩
  | _ => exact nomatch h

end Sys2Proof.Machine
end

/-! ## Proofs: the logical group -/

section
/-! What `Logic` (R150) leaves in A, in each flag and elsewhere, said once for any result, and from that the six
bitwise instructions. -/

namespace Sys2Proof.Machine

@[simp] theorem Flags.logic_cy (f : Flags) (r : Byte) (ac : Bool) : (f.logic r ac).cy = false := rfl
@[simp] theorem Flags.logic_ac (f : Flags) (r : Byte) (ac : Bool) : (f.logic r ac).ac = ac := rfl

theorem State.setAFlags_sameMemory (s : State) (r : Byte × Flags) : SameMemory s (s.setAFlags r) :=
  State.read8_congr (s.setAFlags_mem r) (s.setAFlags_platform r) (s.setAFlags_tick r)

theorem State.setAFlags_sameRest (s : State) (r : Byte × Flags) : SameRest s (s.setAFlags r) :=
  ⟨s.setAFlags_ctl r, s.setAFlags_ext r, s.setAFlags_platform r, s.setAFlags_io r, s.setAFlags_env r,
    s.setAFlags_tick r⟩

/-- The frame of every instruction whose whole effect is a result for A with its flags. -/
theorem State.setAFlags_onlyAAndFlags (s : State) (r : Byte × Flags) : OnlyAAndFlags s (s.setAFlags r) :=
  ⟨s.setAFlags_regs r, s.setAFlags_sp r, s.setAFlags_pc r, s.setAFlags_sameMemory r, s.setAFlags_sameRest r⟩

/-- An instruction that answers `Logic` of the result `r` combines A with `v` by `op`, when every bit of `r` does. -/
theorem combinesWithA_of_logic {s : State} {i : Instr} {op : Bool → Bool → Bool} {v r : Byte} {ac : Bool}
    (hexec : exec i s = .next (s.setAFlags (r, s.flags.logic r ac)))
    (hbits : ∀ k, r.getLsbD k = op (s.regs.a.getLsbD k) (v.getLsbD k)) : CombinesWithA s i op v ac :=
  ⟨s.setAFlags (r, s.flags.logic r ac), hexec, fun k _ => hbits k, s.flags.logic_resultFlags r ac,
    s.flags.logic_cy r ac, s.flags.logic_ac r ac, s.setAFlags_onlyAAndFlags _⟩

theorem combinesWithA_of_andWithA {s : State} {i : Instr} {v : Byte} (hexec : exec i s = .next (s.andWithA v)) :
    CombinesWithA s i (fun x y => x && y) v (Config.andAux s.variant s.regs.a v) :=
  combinesWithA_of_logic hexec fun _ => BitVec.getLsbD_and

theorem combinesWithA_of_orWithA {s : State} {i : Instr} {v : Byte} (hexec : exec i s = .next (s.orWithA v)) :
    CombinesWithA s i (fun x y => x || y) v false :=
  combinesWithA_of_logic hexec fun _ => BitVec.getLsbD_or

theorem combinesWithA_of_xorWithA {s : State} {i : Instr} {v : Byte} (hexec : exec i s = .next (s.xorWithA v)) :
    CombinesWithA s i (fun x y => x ^^ y) v false :=
  combinesWithA_of_logic hexec fun _ => BitVec.getLsbD_xor

/-- Settles O12: ANA and ANI are `andWithA`, ORA and ORI `orWithA`, XRA and XRI `xorWithA`, each on a register or M and
on the data byte. -/
theorem logicalInstructionsCombineBitByBit : Obligations.LogicalInstructionsCombineBitByBit := by
  intro s src data
  have ana : exec (.ana src) s = .next (s.andWithA (s.readOperand src)) := rfl
  have ani : exec (.ani data) s = .next (s.andWithA data) := rfl
  have ora : exec (.ora src) s = .next (s.orWithA (s.readOperand src)) := rfl
  have ori : exec (.ori data) s = .next (s.orWithA data) := rfl
  have xra : exec (.xra src) s = .next (s.xorWithA (s.readOperand src)) := rfl
  have xri : exec (.xri data) s = .next (s.xorWithA data) := rfl
  exact ⟨combinesWithA_of_andWithA ana, combinesWithA_of_andWithA ani, combinesWithA_of_orWithA ora,
    combinesWithA_of_orWithA ori, combinesWithA_of_xorWithA xra, combinesWithA_of_xorWithA xri⟩

end Sys2Proof.Machine
end

/-! ## Proofs: which request is taken -/

section
/-! R254 said of the model's own test, and the search of R261 through the sources: what it finds stands, and a search
that finds nothing has passed every source. -/

namespace Sys2Proof.Machine

/-! ### One source -/

/-- The model's test of a source is what R254 asks of it. -/
theorem State.acceptable_iff_requestStands (s : State) (src : IntSource) :
    s.acceptable src = true ↔ RequestStands s src := by
  cases src with
  | int | trap => simp [State.acceptable, RequestStands]
  | rst75 | rst65 | rst55 => simp [State.acceptable, RequestStands, and_assoc]

/-- The search of `State.accepted` ends with every source, whatever the platform's list names. -/
theorem mem_allSources (src : IntSource) : src ∈ allSources := by
  cases src <;> decide

/-! ### The boundary's decision -/

theorem State.taken_of_no_reset {s : State} (h : s.now.reset = false) : s.taken = s.boundary.accepted :=
  if_neg (ne_true_of_eq_false h)

/-- Where the oracle does not accept, nothing is accepted (R254). -/
theorem State.accepted_of_oracle_refuses {s : State} (h : s.now.accept = false) : s.accepted = none :=
  if_pos (by simp [h])

/-- Where neither IntInhibit nor the oracle bars it, the first acceptable source is accepted (R261). -/
theorem State.accepted_eq_find {s : State} (hinhibit : s.ctl.intInhibit = false) (haccept : s.now.accept = true) :
    s.accepted = (s.platform.priority ++ allSources).find? s.acceptable :=
  if_neg (by simp [hinhibit, haccept])

/-- Settles O49: the boundary leaves IntInhibit and the inputs as they are, so its decision is the search through every
source. -/
theorem aRequestIsTakenExactlyWhenOneStands : Obligations.ARequestIsTakenExactlyWhenOneStands := by
  intro s hreset
  rw [State.taken_of_no_reset hreset]
  refine ⟨fun hrefuse => State.accepted_of_oracle_refuses (by rwa [State.boundary_now]), ?_⟩
  intro hinhibit haccept
  have hfind : s.boundary.accepted = (s.boundary.platform.priority ++ allSources).find? s.boundary.acceptable :=
    State.accepted_eq_find (by rwa [State.boundary_ctl]) (by rwa [State.boundary_now])
  rw [hfind]
  constructor
  · intro src hfound
    exact (s.boundary.acceptable_iff_requestStands src).mp (List.find?_some hfound)
  · intro hnone src hstands
    have hmem : src ∈ s.boundary.platform.priority ++ allSources := List.mem_append_right _ (mem_allSources src)
    exact List.find?_eq_none.mp hnone src hmem ((s.boundary.acceptable_iff_requestStands src).mpr hstands)

end Sys2Proof.Machine
end

/-! ## Proofs: the RST7.5 flip-flop -/

section
/-! The bits only the 8085 has: every shared operation leaves them, SIM alone of the instructions writes them (R40), and
from that what a step does to the flip-flop of R38. -/

namespace Sys2Proof.Machine

/-! ### Shared operations leave the 8085's bits -/

@[simp] theorem State.write16_ext (s : State) (a v : Word) : (s.write16 a v).ext = s.ext := by
  rw [State.write16_eq]
@[simp] theorem State.callTo_ext (s : State) (w : Word) : (s.callTo w).ext = s.ext := by
  rw [State.callTo_eq, State.push16_ext]
@[simp] theorem State.returnFrom_ext (s : State) : s.returnFrom.ext = s.ext := by
  rw [State.returnFrom_eq]
@[simp] theorem State.jumpIf_ext (s : State) (cond : Cond) (w : Word) : (s.jumpIf cond w).ext = s.ext := by
  unfold State.jumpIf
  split <;> simp
@[simp] theorem State.callIf_ext (s : State) (cond : Cond) (w : Word) : (s.callIf cond w).ext = s.ext := by
  unfold State.callIf
  split <;> simp
@[simp] theorem State.returnIf_ext (s : State) (cond : Cond) : (s.returnIf cond).ext = s.ext := by
  unfold State.returnIf
  split <;> simp
@[simp] theorem State.writeOperand_ext (s : State) (o : Operand8) (v : Byte) : (s.writeOperand o v).ext = s.ext := by
  rw [State.writeOperand_eq]
@[simp] theorem State.modifyOperand_ext (s : State) (o : Operand8) (f : Byte → Byte) :
    (s.modifyOperand o f).ext = s.ext := by
  rw [State.modifyOperand_eq]
@[simp] theorem State.writePair_ext (s : State) (rp : RegPair) (v : Word) : (s.writePair rp v).ext = s.ext := by
  rw [State.writePair_eq]
@[simp] theorem State.writeStackPair_ext (s : State) (rp : StackPair) (v : Word) :
    (s.writeStackPair rp v).ext = s.ext := by
  rw [State.writeStackPair_eq]
@[simp] theorem State.enterRestart_ext (s : State) (w : Word) : (s.enterRestart w).ext = s.ext :=
  State.callTo_ext s.recognise w

/-! ### Instructions: SIM alone writes them -/

/-- By cases on the instruction: its next state is plain updates of the state, or one of the shared operations. -/
theorem exec_ext_of_ne_sim {i : Instr} {s t : State} (hi : i ≠ .sim) (h : exec i s = .next t) : t.ext = s.ext := by
  cases i with
  | sim => exact absurd rfl hi
  | mov dst src =>
    change execMov dst src s = .next t at h
    unfold execMov at h
    split at h
    · cases h
    · cases h; exact State.writeOperand_ext ..
  | rim =>
    change execRim s = .next t at h
    unfold execRim at h
    split at h
    · cases h
    · cases h; exact State.setA_ext ..
  | mvi _ _ => cases h; exact State.writeOperand_ext ..
  | inr _ | dcr _ => cases h; exact State.modifyOperand_ext ..
  | lxi _ _ | inx _ | dcx _ => cases h; exact State.writePair_ext ..
  | sta _ | stax _ => cases h; exact State.write8_ext ..
  | shld _ => cases h; exact State.write16_ext ..
  | lhld _ => cases h; exact State.dmaTurn_ext ..
  | xthl => cases h; simp
  | push _ => cases h; exact State.push16_ext ..
  | pop _ => cases h; simp
  | jc _ | jm _ | jnc _ | jnz _ | jp _ | jpe _ | jpo _ | jz _ => cases h; exact State.jumpIf_ext ..
  | call _ | rst _ => cases h; exact State.callTo_ext ..
  | cc _ | cm _ | cnc _ | cnz _ | cp _ | cpe _ | cpo _ | cz _ => cases h; exact State.callIf_ext ..
  | ret => cases h; exact State.returnFrom_ext ..
  | rc | rm | rnc | rnz | rp | rpe | rpo | rz => cases h; exact State.returnIf_ext ..
  | _ => cases h; rfl

theorem exec_sim_ext {s t : State} (h : exec .sim s = .next t) : t.ext = s.ext.setBy s.regs.a := by
  change execSim s = .next t at h
  unfold execSim at h
  split at h
  · cases h
  · cases h; rfl

/-- SIM with bit 4 of A set resets the flip-flop, and no other instruction writes it (R38, R40). -/
theorem exec_flipFlop_iff {i : Instr} {s t : State} (h : exec i s = .next t) :
    t.ext.r75 = true ↔ s.ext.r75 = true ∧ ¬ (i = .sim ∧ s.regs.a.getLsbD 4 = true) := by
  by_cases hi : i = .sim
  · subst hi
    rw [exec_sim_ext h]
    simp [Ext85.setBy, and_comm]
  · simp [exec_ext_of_ne_sim hi h, hi]

/-! ### The boundary, RESET and recognition -/

/-- R260: an edge sets the flip-flop, whatever INTE and the mask are. -/
theorem State.boundary_flipFlop_iff {s : State} (hv : s.variant = .i8085) :
    s.boundary.ext.r75 = true ↔ s.ext.r75 = true ∨ s.now.rst75 = true := by
  rw [State.boundary_ext]
  by_cases hedge : s.now.rst75 = true <;> simp [hv, hedge]

theorem State.applyReset_flipFlop {s : State} (hv : s.variant = .i8085) : s.applyReset.ext.r75 = false :=
  congrArg Ext85.r75 (if_pos hv : s.applyReset.ext = resetExt s.tick)

/-- R258: recognition resets the flip-flop of RST7.5 alone. -/
theorem State.clearRequest_flipFlop_iff (s : State) (src : IntSource) :
    (s.clearRequest src).ext.r75 = true ↔ s.ext.r75 = true ∧ src ≠ .rst75 := by
  unfold State.clearRequest
  by_cases hsrc : src = .rst75 <;> simp [hsrc]

/-! ### What a step runs -/

theorem State.running_of_supplied {s : State} (hreset : s.now.reset = false) (htaken : s.taken = some .int) :
    s.running = decodeSupplied s.variant s.now.intByte := by
  simp [State.running, hreset, htaken]

theorem State.running_of_restart {s : State} {src : IntSource} (hsrc : src ≠ .int) (htaken : s.taken = some src) :
    s.running = none := by
  cases src with
  | int => exact absurd rfl hsrc
  | _ => simp [State.running, htaken]

theorem State.running_of_halted {s : State} (htaken : s.taken = none) (hhalted : s.ctl.halted = true) :
    s.running = none := by
  simp [State.running, htaken, hhalted]

theorem State.running_of_fetched {s : State} {i : Instr} {rest : List Byte} (hreset : s.now.reset = false)
    (htaken : s.taken = none) (hhalted : s.ctl.halted = false)
    (hdecode : decode s.variant s.boundary.fetchBytes = .ok (i, rest)) : s.running = some i := by
  simp [State.running, hreset, htaken, hhalted, hdecode]

/-! ### A step -/

/-- By cases on what the step was (R9): each of the three resets belongs to one branch, and every other branch leaves
the flip-flop as the boundary left it. -/
theorem step_flipFlop_iff {s t : State} (h : step s = .next t) (hv : s.variant = .i8085) :
    t.ext.r75 = true ↔ s.boundary.ext.r75 = true ∧ s.now.reset = false ∧ s.taken ≠ some .rst75 ∧
      ¬ (s.running = some .sim ∧ s.regs.a.getLsbD 4 = true) := by
  rcases step_cases h with ⟨hreset, rfl⟩ | ⟨hreset, src, u, hacc, henter, rfl⟩ | ⟨hreset, hacc, hhalted, rfl⟩ |
    ⟨hreset, hacc, hhalted, i, rest, u, hdecode, hexec, rfl⟩
  · have hclear : s.boundary.applyReset.ext.r75 = false := State.applyReset_flipFlop (by rwa [State.boundary_variant])
    simp [hreset, hclear]
  · have htaken : s.taken = some src := (State.taken_of_no_reset hreset).trans hacc
    rcases enter_cases henter with ⟨rfl, i, w, hsupplied, hexec, rfl⟩ | ⟨hsrc, rfl⟩
    · have hrunning : s.running = some i := by
        rw [State.running_of_supplied hreset htaken]
        simpa using hsupplied
      simp [exec_flipFlop_iff hexec, hreset, htaken, hrunning]
    · simp [State.clearRequest_flipFlop_iff, hreset, htaken, State.running_of_restart hsrc htaken]
  · have htaken : s.taken = none := (State.taken_of_no_reset hreset).trans hacc
    simp [hreset, htaken, State.running_of_halted htaken hhalted]
  · have htaken : s.taken = none := (State.taken_of_no_reset hreset).trans hacc
    simp [exec_flipFlop_iff hexec, hreset, htaken, State.running_of_fetched hreset htaken hhalted hdecode]

/-- Settles O54: the edge is the boundary's (R260), the three resets are the step's (R38). -/
theorem flipFlopHoldsUntilOneOfItsThreeResets : Obligations.FlipFlopHoldsUntilOneOfItsThreeResets := by
  intro s t h hv
  have hboundary := State.boundary_flipFlop_iff hv
  exact ⟨hboundary, (step_flipFlop_iff h hv).trans (and_congr_left' hboundary)⟩

end Sys2Proof.Machine
end

/-! ## Proofs: encoding and decoding -/

section
/-! The opcode map (R81) read both ways: what the bytes of a quadrant decode to, which of them are undefined, and how
many bytes an instruction of it has. From that the two round trips, for every instruction and for every byte list. -/

namespace Sys2Proof

/-! ### Field codes read back (R73, R74) -/

@[simp] theorem Operand8.ofCode_code (o : Operand8) : Operand8.ofCode o.code = o := by
  cases o <;> rfl

@[simp] theorem Operand8.code_ofCode (x : BitVec 3) : (Operand8.ofCode x).code = x := by
  revert x; decide

/-- A three-bit field has one of eight values. -/
theorem field_cases (x : BitVec 3) : x = 0 ∨ x = 1 ∨ x = 2 ∨ x = 3 ∨ x = 4 ∨ x = 5 ∨ x = 6 ∨ x = 7 := by
  revert x; decide

/-! ### A first byte is a quadrant and two fields -/

/-- Every byte lies in one of the four quadrants of R81. -/
theorem quadrant_cases (b : Byte) :
    ∃ y z : BitVec 3, b = quadrant0 y z ∨ b = quadrant1 y z ∨ b = quadrant2 y z ∨ b = quadrant3 y z := by
  refine ⟨b.extractLsb' 3 3, b.extractLsb' 0 3, ?_⟩
  revert b; decide

theorem decodeOpcode_quadrant0 (v : Variant) (y z : BitVec 3) (b2 b3 : Byte) :
    decodeOpcode v (quadrant0 y z) b2 b3 = decodeQuadrant0 v y z b2 b3 := by
  have hy : (quadrant0 y z).extractLsb' 3 3 = y := by revert y z; decide
  have hz : (quadrant0 y z).extractLsb' 0 3 = z := by revert y z; decide
  have hq : ((quadrant0 y z).extractLsb' 6 2).toNat = 0 := by revert y z; decide
  simp [decodeOpcode, hy, hz, hq]

theorem decodeOpcode_quadrant1 (v : Variant) (y z : BitVec 3) (b2 b3 : Byte) :
    decodeOpcode v (quadrant1 y z) b2 b3 = some (decodeQuadrant1 y z) := by
  have hy : (quadrant1 y z).extractLsb' 3 3 = y := by revert y z; decide
  have hz : (quadrant1 y z).extractLsb' 0 3 = z := by revert y z; decide
  have hq : ((quadrant1 y z).extractLsb' 6 2).toNat = 1 := by revert y z; decide
  simp [decodeOpcode, hy, hz, hq]

theorem decodeOpcode_quadrant2 (v : Variant) (y z : BitVec 3) (b2 b3 : Byte) :
    decodeOpcode v (quadrant2 y z) b2 b3 = some (decodeQuadrant2 y z) := by
  have hy : (quadrant2 y z).extractLsb' 3 3 = y := by revert y z; decide
  have hz : (quadrant2 y z).extractLsb' 0 3 = z := by revert y z; decide
  have hq : ((quadrant2 y z).extractLsb' 6 2).toNat = 2 := by revert y z; decide
  simp [decodeOpcode, hy, hz, hq]

theorem decodeOpcode_quadrant3 (v : Variant) (y z : BitVec 3) (b2 b3 : Byte) :
    decodeOpcode v (quadrant3 y z) b2 b3 = decodeQuadrant3 y z b2 b3 := by
  have hy : (quadrant3 y z).extractLsb' 3 3 = y := by revert y z; decide
  have hz : (quadrant3 y z).extractLsb' 0 3 = z := by revert y z; decide
  have hq : ((quadrant3 y z).extractLsb' 6 2).toNat = 3 := by revert y z; decide
  simp [decodeOpcode, hy, hz, hq]

/-! ### From a first byte to the bytes of its instruction -/

/-- `i` is an instruction of `v`, and its bytes are the first of `b1`, `b2`, `b3`, as many as `b1` says. -/
def Encodes (v : Variant) (b1 b2 b3 : Byte) (i : Instr) : Prop :=
  i.wellFormed v = true ∧ encode i = [b1, b2, b3].take (instrLength b1)

theorem Encodes.oneByte {v : Variant} {b1 b2 b3 : Byte} {i : Instr} (hlen : instrLength b1 = 1)
    (hwf : i.wellFormed v = true) (henc : encode i = [b1]) : Encodes v b1 b2 b3 i :=
  ⟨hwf, by rw [henc, hlen]; rfl⟩

theorem Encodes.twoBytes {v : Variant} {b1 b2 b3 : Byte} {i : Instr} (hlen : instrLength b1 = 2)
    (hwf : i.wellFormed v = true) (henc : encode i = [b1, b2]) : Encodes v b1 b2 b3 i :=
  ⟨hwf, by rw [henc, hlen]; rfl⟩

theorem Encodes.threeBytes {v : Variant} {b1 b2 b3 : Byte} {i : Instr} (hlen : instrLength b1 = 3)
    (hwf : i.wellFormed v = true) (henc : encode i = withAddress b1 (wordOf b3 b2)) : Encodes v b1 b2 b3 i :=
  ⟨hwf, by rw [henc, hlen, withAddress, Machine.loByte_wordOf, Machine.hiByte_wordOf]; rfl⟩

/-- Quadrant 00, by the column `z` of the map. -/
theorem decodeQuadrant0_encodes {v : Variant} {y z : BitVec 3} {b2 b3 : Byte} {i : Instr}
    (h : decodeQuadrant0 v y z b2 b3 = some i) : Encodes v (quadrant0 y z) b2 b3 i := by
  have len4 : instrLength (quadrant0 y 4) = 1 := by clear h; revert y; decide
  have len5 : instrLength (quadrant0 y 5) = 1 := by clear h; revert y; decide
  have len6 : instrLength (quadrant0 y 6) = 2 := by clear h; revert y; decide
  rcases field_cases z with rfl | rfl | rfl | rfl | rfl | rfl | rfl | rfl
  · -- NOP, RIM and SIM
    rcases field_cases y with rfl | rfl | rfl | rfl | rfl | rfl | rfl | rfl <;> cases v <;> cases h <;>
      exact .oneByte rfl rfl rfl
  · -- LXI above an even field, DAD above an odd one
    rcases field_cases y with rfl | rfl | rfl | rfl | rfl | rfl | rfl | rfl <;> cases h
    iterate 4
      · exact .threeBytes rfl rfl rfl
      · exact .oneByte rfl rfl rfl
  · -- STAX and LDAX, then the direct loads and stores
    rcases field_cases y with rfl | rfl | rfl | rfl | rfl | rfl | rfl | rfl <;> cases h
    iterate 4 exact .oneByte rfl rfl rfl
    iterate 4 exact .threeBytes rfl rfl rfl
  · -- INX and DCX
    rcases field_cases y with rfl | rfl | rfl | rfl | rfl | rfl | rfl | rfl <;> cases h <;>
      exact .oneByte rfl rfl rfl
  · cases h; exact .oneByte len4 rfl (by simp [encode])
  · cases h; exact .oneByte len5 rfl (by simp [encode])
  · cases h; exact .twoBytes len6 rfl (by simp [encode])
  · -- the rotates, DAA, CMA, STC and CMC
    rcases field_cases y with rfl | rfl | rfl | rfl | rfl | rfl | rfl | rfl <;> cases h <;>
      exact .oneByte rfl rfl rfl

theorem instrLength_quadrant1 (y z : BitVec 3) : instrLength (quadrant1 y z) = 1 := by
  revert y z; decide

theorem decodeQuadrant1_encodes (v : Variant) (y z : BitVec 3) (b2 b3 : Byte) :
    Encodes v (quadrant1 y z) b2 b3 (decodeQuadrant1 y z) := by
  have hwf : (decodeQuadrant1 y z).wellFormed v = true := by revert y z; cases v <;> decide
  have henc : encode (decodeQuadrant1 y z) = [quadrant1 y z] := by clear hwf; revert y z; decide
  exact .oneByte (instrLength_quadrant1 y z) hwf henc

theorem decodeQuadrant2_encodes (v : Variant) (y z : BitVec 3) (b2 b3 : Byte) :
    Encodes v (quadrant2 y z) b2 b3 (decodeQuadrant2 y z) := by
  have hlen : instrLength (quadrant2 y z) = 1 := by revert y z; decide
  have hwf : (decodeQuadrant2 y z).wellFormed v = true := by clear hlen; revert y z; cases v <;> decide
  have henc : encode (decodeQuadrant2 y z) = [quadrant2 y z] := by clear hlen hwf; revert y z; decide
  exact .oneByte hlen hwf henc

/-- Quadrant 11, by the column `z` of the map. -/
theorem decodeQuadrant3_encodes {v : Variant} {y z : BitVec 3} {b2 b3 : Byte} {i : Instr}
    (h : decodeQuadrant3 y z b2 b3 = some i) : Encodes v (quadrant3 y z) b2 b3 i := by
  have len7 : instrLength (quadrant3 y 7) = 1 := by clear h; revert y; decide
  rcases field_cases z with rfl | rfl | rfl | rfl | rfl | rfl | rfl | rfl
  · -- the conditional returns
    rcases field_cases y with rfl | rfl | rfl | rfl | rfl | rfl | rfl | rfl <;> cases h <;>
      exact .oneByte rfl rfl rfl
  · -- POP, RET, PCHL and SPHL
    rcases field_cases y with rfl | rfl | rfl | rfl | rfl | rfl | rfl | rfl <;> cases h <;>
      exact .oneByte rfl rfl rfl
  · -- the conditional jumps
    rcases field_cases y with rfl | rfl | rfl | rfl | rfl | rfl | rfl | rfl <;> cases h <;>
      exact .threeBytes rfl rfl rfl
  · -- JMP, OUT and IN, then XTHL, XCHG, DI and EI
    rcases field_cases y with rfl | rfl | rfl | rfl | rfl | rfl | rfl | rfl <;> cases h
    · exact .threeBytes rfl rfl rfl
    iterate 2 exact .twoBytes rfl rfl rfl
    iterate 4 exact .oneByte rfl rfl rfl
  · -- the conditional calls
    rcases field_cases y with rfl | rfl | rfl | rfl | rfl | rfl | rfl | rfl <;> cases h <;>
      exact .threeBytes rfl rfl rfl
  · -- PUSH above an even field, and CALL
    rcases field_cases y with rfl | rfl | rfl | rfl | rfl | rfl | rfl | rfl <;> cases h
    · exact .oneByte rfl rfl rfl
    · exact .threeBytes rfl rfl rfl
    iterate 3 exact .oneByte rfl rfl rfl
  · -- the immediate operations of the accumulator
    rcases field_cases y with rfl | rfl | rfl | rfl | rfl | rfl | rfl | rfl <;> cases h <;>
      exact .twoBytes rfl rfl rfl
  · cases h; exact .oneByte len7 rfl rfl

/-- What a first byte stands for is an instruction of the variant, with that byte and the bytes after it as its own. -/
theorem decodeOpcode_encodes {v : Variant} {b1 b2 b3 : Byte} {i : Instr} (h : decodeOpcode v b1 b2 b3 = some i) :
    Encodes v b1 b2 b3 i := by
  obtain ⟨y, z, rfl | rfl | rfl | rfl⟩ := quadrant_cases b1
  · exact decodeQuadrant0_encodes (decodeOpcode_quadrant0 v y z b2 b3 ▸ h)
  · rw [decodeOpcode_quadrant1] at h
    cases h; exact decodeQuadrant1_encodes v y z b2 b3
  · rw [decodeOpcode_quadrant2] at h
    cases h; exact decodeQuadrant2_encodes v y z b2 b3
  · exact decodeQuadrant3_encodes (decodeOpcode_quadrant3 v y z b2 b3 ▸ h)

/-! ### Lists of bytes -/

theorem instrLength_cases (b : Byte) : instrLength b = 1 ∨ instrLength b = 2 ∨ instrLength b = 3 := by
  unfold instrLength
  split
  · exact .inr (.inr rfl)
  · split
    · exact .inr (.inl rfl)
    · exact .inl rfl

/-- Everything a decoding that answers an instruction can have been. -/
theorem decode_ok_iff {v : Variant} {bytes : List Byte} {i : Instr} {rest : List Byte} :
    decode v bytes = .ok (i, rest) ↔
      ∃ b1 tl, bytes = b1 :: tl ∧ decodeOpcode v b1 (tl.getD 0 0) (tl.getD 1 0) = some i ∧
        instrLength b1 ≤ tl.length + 1 ∧ rest = tl.drop (instrLength b1 - 1) := by
  cases bytes with
  | nil => simp [decode]
  | cons b1 tl =>
    constructor
    · intro h
      rw [decode] at h
      split at h
      · cases h
      · rename_i j hop
        split at h
        · cases h
        · rename_i hlen
          cases h
          exact ⟨b1, tl, rfl, hop, Nat.not_lt.mp hlen, rfl⟩
    · rintro ⟨_, _, hcons, hop, hlen, rfl⟩
      cases hcons
      rw [decode, hop]
      exact if_neg (Nat.not_lt.mpr hlen)

/-- The bytes an instruction has taken and the bytes left are the bytes there were. -/
theorem take_append_drop_of_length {b1 : Byte} {tl : List Byte} (hlen : instrLength b1 ≤ tl.length + 1) :
    [b1, tl.getD 0 0, tl.getD 1 0].take (instrLength b1) ++ tl.drop (instrLength b1 - 1) = b1 :: tl := by
  rcases instrLength_cases b1 with h | h | h
  · simp [h]
  · rw [h] at hlen ⊢
    match tl, hlen with
    | _ :: _, _ => rfl
  · rw [h] at hlen ⊢
    match tl, hlen with
    | _ :: _ :: _, _ => rfl

/-- Settles O2: the first byte fixes the instruction and how many of the bytes are its own. -/
theorem decodedBytesAreTheInstructionsEncoding : Obligations.DecodedBytesAreTheInstructionsEncoding := by
  intro v bytes i rest h
  obtain ⟨b1, tl, rfl, hop, hlen, rfl⟩ := decode_ok_iff.mp h
  obtain ⟨hwf, henc⟩ := decodeOpcode_encodes hop
  exact ⟨hwf, by rw [henc, take_append_drop_of_length hlen]⟩

/-! ### From an instruction to its bytes and back -/

theorem decode_oneByte {v : Variant} {b1 : Byte} {i : Instr} (hlen : instrLength b1 = 1)
    (hop : ∀ b2 b3, decodeOpcode v b1 b2 b3 = some i) (rest : List Byte) : decode v ([b1] ++ rest) = .ok (i, rest) :=
  decode_ok_iff.mpr ⟨b1, rest, rfl, hop _ _, by omega, by simp [hlen]⟩

theorem decode_twoBytes {v : Variant} {b1 b2 : Byte} {i : Instr} (hlen : instrLength b1 = 2)
    (hop : ∀ b3, decodeOpcode v b1 b2 b3 = some i) (rest : List Byte) : decode v ([b1, b2] ++ rest) = .ok (i, rest) :=
  decode_ok_iff.mpr ⟨b1, b2 :: rest, rfl, hop _, by simp [hlen], by simp [hlen]⟩

theorem decode_threeBytes {v : Variant} {b1 : Byte} {f : Word → Instr} (hlen : instrLength b1 = 3)
    (hop : ∀ b2 b3, decodeOpcode v b1 b2 b3 = some (f (wordOf b3 b2))) (w : Word) (rest : List Byte) :
    decode v (withAddress b1 w ++ rest) = .ok (f w, rest) := by
  have hw : decodeOpcode v b1 (loByte w) (hiByte w) = some (f w) := by
    rw [hop, Machine.wordOf_hiByte_loByte]
  exact decode_ok_iff.mpr ⟨b1, loByte w :: hiByte w :: rest, rfl, hw, by simp [hlen], by simp [hlen]⟩

/-- MOV of every pair of operands but M and M is in quadrant 01, where M and M stand for HLT (R85). -/
theorem decode_encode_mov {v : Variant} {dst src : Operand8} (h : (Instr.mov dst src).wellFormed v = true)
    (rest : List Byte) : decode v (encode (.mov dst src) ++ rest) = .ok (.mov dst src, rest) := by
  have hnot : ¬ (dst.code = 6 ∧ src.code = 6) := by
    rintro ⟨hd, hs⟩
    obtain rfl : dst = .m := by rw [← Operand8.ofCode_code dst, hd]; rfl
    obtain rfl : src = .m := by rw [← Operand8.ofCode_code src, hs]; rfl
    cases h
  have hop : decodeQuadrant1 dst.code src.code = .mov dst src := by
    rw [decodeQuadrant1, if_neg hnot, Operand8.ofCode_code, Operand8.ofCode_code]
  exact decode_oneByte (instrLength_quadrant1 _ _) (fun b2 b3 => by rw [decodeOpcode_quadrant1, hop]) rest

/-- Decode after encode, by the form of the instruction's encoding. -/
theorem decode_encode {v : Variant} {i : Instr} (h : i.wellFormed v = true) (rest : List Byte) :
    decode v (encode i ++ rest) = .ok (i, rest) := by
  cases i with
  | mov dst src => exact decode_encode_mov h rest
  | rim | sim =>
    cases v with
    | i8080 => cases h
    | i8085 => exact decode_oneByte rfl (fun _ _ => rfl) rest
  | ldax rp | stax rp | dad rp | dcx rp | inx rp | pop rp | push rp =>
    cases rp <;> exact decode_oneByte rfl (fun _ _ => rfl) rest
  | adc o | add o | sbb o | sub o | ana o | cmp o | ora o | xra o | inr o | dcr o =>
    cases o <;> exact decode_oneByte rfl (fun _ _ => rfl) rest
  | rst code =>
    rcases field_cases code with rfl | rfl | rfl | rfl | rfl | rfl | rfl | rfl <;>
      exact decode_oneByte rfl (fun _ _ => rfl) rest
  | mvi o data => cases o <;> exact decode_twoBytes rfl (fun _ => rfl) rest
  | aci _ | adi _ | sbi _ | sui _ | ani _ | cpi _ | ori _ | xri _ | inPort _ | outPort _ =>
    exact decode_twoBytes rfl (fun _ => rfl) rest
  | lxi rp data => cases rp <;> exact decode_threeBytes rfl (fun _ _ => rfl) data rest
  | lda addr | lhld addr | shld addr | sta addr | jmp addr | call addr =>
    exact decode_threeBytes rfl (fun _ _ => rfl) addr rest
  | jc addr | jm addr | jnc addr | jnz addr | jp addr | jpe addr | jpo addr | jz addr =>
    exact decode_threeBytes rfl (fun _ _ => rfl) addr rest
  | cc addr | cm addr | cnc addr | cnz addr | cp addr | cpe addr | cpo addr | cz addr =>
    exact decode_threeBytes rfl (fun _ _ => rfl) addr rest
  | _ => exact decode_oneByte rfl (fun _ _ => rfl) rest

/-- Settles O1: `decode_encode` for every instruction. -/
theorem decodingAnEncodingGivesTheInstruction : Obligations.DecodingAnEncodingGivesTheInstruction :=
  fun _ _ rest h => decode_encode h rest

/-- Settles O4: each list is an encoding with some bytes after it. -/
theorem writtenOutWordsDecodeToTheirInstructions : Obligations.WrittenOutWordsDecodeToTheirInstructions := by
  unfold Obligations.WrittenOutWordsDecodeToTheirInstructions
  exact ⟨decode_encode (i := .sta 0x05B3) rfl [], decode_encode (i := .lxi .b 0x415A) rfl [],
    decode_encode (i := .mov .a .m) rfl [0x5F, 0x49], decode_encode (i := .mvi .m 0x41) rfl [],
    decode_encode (i := .aci 0x42) rfl [], decode_encode (i := .ani 0xBF) rfl [],
    decode_encode (i := .cc 0x0200) rfl [], decode_encode (i := .rst 7) rfl [], decode_encode (i := .hlt) rfl [],
    decode_encode (i := .rim) rfl []⟩

/-! ### Address operands (R78) -/

/-- An instruction whose encoding is a first byte and a word is read back from that byte with the word's low byte
second and its high byte third. -/
theorem decode_addressOperand {v : Variant} {b1 : Byte} {f : Word → Instr} (hwf : ∀ w, (f w).wellFormed v = true)
    (henc : ∀ w, encode (f w) = withAddress b1 w) (b2 b3 : Byte) (rest : List Byte) :
    decode v (b1 :: b2 :: b3 :: rest) = .ok (f (BitVec.ofNat 16 (256 * b3.toNat + b2.toNat)), rest) := by
  have h := decode_encode (hwf (wordOf b3 b2)) rest
  rwa [henc, withAddress, Machine.loByte_wordOf, Machine.hiByte_wordOf, Machine.wordOf_eq] at h

/-- Settles O5: the nine jumps, the nine calls, the four direct loads and stores, and LXI of each pair. -/
theorem addressOperandsAreByte3ThenByte2 : Obligations.AddressOperandsAreByte3ThenByte2 := by
  intro v b2 b3 rest w
  have operand : ∀ {b1 : Byte} {f : Word → Instr}, (∀ w, (f w).wellFormed v = true) →
      (∀ w, encode (f w) = withAddress b1 w) → decode v (b1 :: b2 :: b3 :: rest) = .ok (f w, rest) :=
    fun hwf henc => decode_addressOperand hwf henc b2 b3 rest
  refine ⟨⟨?_, ?_, ?_, ?_, ?_, ?_, ?_, ?_, ?_⟩, ⟨?_, ?_, ?_, ?_, ?_, ?_, ?_, ?_, ?_⟩, ⟨?_, ?_, ?_, ?_⟩, ?_, ?_, ?_, ?_⟩
  all_goals exact operand (fun _ => rfl) (fun _ => rfl)

/-! ### Undefined first bytes (R83, R84) -/

/-- The first bytes with no row for the variant. -/
def UndefinedFirst (v : Variant) (b : Byte) : Prop :=
  b ∈ ([0x08, 0x10, 0x18, 0x28, 0x38, 0xCB, 0xD9, 0xDD, 0xED, 0xFD] : List Byte) ∨
    (v = .i8080 ∧ (b = 0x20 ∨ b = 0x30))

theorem decodeOpcode_of_undefined {v : Variant} {b : Byte} (h : UndefinedFirst v b) (b2 b3 : Byte) :
    decodeOpcode v b b2 b3 = none := by
  rcases h with h | ⟨rfl, rfl | rfl⟩
  · simp only [List.mem_cons, List.not_mem_nil, or_false] at h
    rcases h with rfl | rfl | rfl | rfl | rfl | rfl | rfl | rfl | rfl | rfl <;> rfl
  · rfl
  · rfl

/-- In quadrant 00 the field values without an instruction are in the column of NOP. -/
theorem undefined_of_decodeQuadrant0 {v : Variant} {y z : BitVec 3} {b2 b3 : Byte}
    (h : decodeQuadrant0 v y z b2 b3 = none) : UndefinedFirst v (quadrant0 y z) := by
  unfold UndefinedFirst
  rcases field_cases z with rfl | rfl | rfl | rfl | rfl | rfl | rfl | rfl <;>
    rcases field_cases y with rfl | rfl | rfl | rfl | rfl | rfl | rfl | rfl <;> cases v <;> cases h <;> decide

/-- In quadrant 11 they are in the columns of RET, JMP and CALL. -/
theorem undefined_of_decodeQuadrant3 {y z : BitVec 3} {b2 b3 : Byte} (v : Variant)
    (h : decodeQuadrant3 y z b2 b3 = none) : UndefinedFirst v (quadrant3 y z) := by
  refine .inl ?_
  rcases field_cases z with rfl | rfl | rfl | rfl | rfl | rfl | rfl | rfl <;>
    rcases field_cases y with rfl | rfl | rfl | rfl | rfl | rfl | rfl | rfl <;> cases h <;> decide

/-- Every other first byte stands for an instruction. -/
theorem decodeOpcode_of_defined {v : Variant} {b : Byte} (h : ¬ UndefinedFirst v b) (b2 b3 : Byte) :
    ∃ i, decodeOpcode v b b2 b3 = some i := by
  refine Option.ne_none_iff_exists'.mp fun hnone => h ?_
  obtain ⟨y, z, rfl | rfl | rfl | rfl⟩ := quadrant_cases b
  · exact undefined_of_decodeQuadrant0 (decodeOpcode_quadrant0 v y z b2 b3 ▸ hnone)
  · rw [decodeOpcode_quadrant1] at hnone
    cases hnone
  · rw [decodeOpcode_quadrant2] at hnone
    cases hnone
  · exact undefined_of_decodeQuadrant3 v (decodeOpcode_quadrant3 v y z b2 b3 ▸ hnone)

theorem decode_of_undefined {v : Variant} {b : Byte} (h : UndefinedFirst v b) (rest : List Byte) :
    decode v (b :: rest) = .error (.undefinedOpcode b) := by
  rw [decode, decodeOpcode_of_undefined h]

/-- Settles O3: two bytes after the first are enough for the longest instruction. -/
theorem undefinedFirstBytesAreRefusedAndNoOthers : Obligations.UndefinedFirstBytesAreRefusedAndNoOthers := by
  intro v b rest
  refine ⟨fun h => decode_of_undefined h rest, fun h hrest => ?_⟩
  obtain ⟨i, hop⟩ := decodeOpcode_of_defined h (rest.getD 0 0) (rest.getD 1 0)
  have hlen : instrLength b ≤ rest.length + 1 := by
    rcases instrLength_cases b with hb | hb | hb <;> omega
  exact ⟨i, _, decode_ok_iff.mpr ⟨b, rest, rfl, hop, hlen, rfl⟩⟩

end Sys2Proof
end

/-! ## Proofs: what an instruction may write -/

section
/-! The frame of every instruction said once, from the equation of each shared operation: a next state is the state
before with only those fields taken anew that the instruction may write. -/

namespace Sys2Proof.Machine

/-! ### The conditional operations -/

theorem State.jumpIf_eq (s : State) (cond : Cond) (w : Word) :
    s.jumpIf cond w = { s with pc := if s.flags.holds cond = true then w else s.pc } := by
  unfold State.jumpIf
  split <;> rfl

/-- A conditional call changes memory, SP and pc at most. -/
theorem State.callIf_eq (s : State) (cond : Cond) (w : Word) :
    s.callIf cond w =
      { s with mem := (s.callIf cond w).mem, sp := (s.callIf cond w).sp, pc := (s.callIf cond w).pc } := by
  unfold State.callIf
  split
  · rw [State.callTo_eq, State.push16_eq]
  · rfl

/-- A conditional return changes memory, SP and pc at most. -/
theorem State.returnIf_eq (s : State) (cond : Cond) :
    s.returnIf cond =
      { s with mem := (s.returnIf cond).mem, sp := (s.returnIf cond).sp, pc := (s.returnIf cond).pc } := by
  unfold State.returnIf
  split
  · rw [State.returnFrom_eq]
  · rfl

/-! ### Instructions with a refusal -/

theorem exec_mov_next {dst src : Operand8} {s t : State} (h : exec (.mov dst src) s = .next t) :
    t = s.writeOperand dst (s.readOperand src) := by
  change execMov dst src s = .next t at h
  unfold execMov at h
  split at h
  · cases h
  · cases h; rfl

theorem exec_rim_next {s t : State} (h : exec .rim s = .next t) : t = s.setA s.rimByte := by
  change execRim s = .next t at h
  unfold execRim at h
  split at h
  · cases h
  · cases h; rfl

theorem exec_sim_next {s t : State} (h : exec .sim s = .next t) : t = { s with ext := s.ext.setBy s.regs.a } := by
  change execSim s = .next t at h
  unfold execSim at h
  split at h
  · cases h
  · cases h; rfl

/-- The stores of XTHL with the DMA agent's turns before and between them (R231, R61). -/
def State.exchangeStores (s : State) : State :=
  ((((s.dmaTurn .data2).dmaTurn .data3).write8 (s.sp + 1) s.regs.h).dmaTurn .data4).write8 s.sp s.regs.l

/-- They change memory only. -/
theorem State.exchangeStores_eq (s : State) : s.exchangeStores = { s with mem := s.exchangeStores.mem } := by
  unfold State.exchangeStores
  rw [State.write8_eq, State.dmaTurn_eq, State.write8_eq ((s.dmaTurn .data2).dmaTurn .data3), State.dmaTurn_eq,
    State.dmaTurn_eq s]

theorem State.exchangeStores_wf {s : State} (h : Memory.wf s.mem = true) : Memory.wf s.exchangeStores.mem = true :=
  State.write8_wf (State.dmaTurn_wf (State.write8_wf (State.dmaTurn_wf (State.dmaTurn_wf h _) _) _ _) _) _ _

theorem exec_xthl (s : State) : exec .xthl s = .next (s.exchangeStores.setHL s.top16) := rfl

/-! ### The frame -/

/-- The instructions that write a control bit. -/
def writesControl : Instr → Bool
  | .di | .ei | .hlt => true
  | _ => false

/-- The instructions that access a port. -/
def accessesPort : Instr → Bool
  | .inPort _ | .outPort _ => true
  | _ => false

/-- The state `s` with the fields that `i` may write taken from `t`. -/
def written (i : Instr) (s t : State) : State :=
  { s with
    regs := t.regs
    flags := if writesFlags i then t.flags else s.flags
    sp := if movesSp i then t.sp else s.sp
    pc := if writesPc i then t.pc else s.pc
    mem := if storesMemory i || readsTwoBytes i then t.mem else s.mem
    ctl := if writesControl i then t.ctl else s.ctl
    ext := if i = .sim then t.ext else s.ext
    io := if accessesPort i then t.io else s.io }

/-- By cases on the instruction: each next state is plain updates of the state or one of the shared operations, whose
equation says what it changes. -/
theorem exec_written {i : Instr} {s t : State} (h : exec i s = .next t) : t = written i s t := by
  cases i with
  | mov dst _ => rw [exec_mov_next h, State.writeOperand_eq]; cases dst <;> rfl
  | mvi dst _ => cases h; rw [State.writeOperand_eq]; cases dst <;> rfl
  | inr o | dcr o => cases h; rw [State.modifyOperand_eq]; cases o <;> rfl
  | rim => rw [exec_rim_next h]; rfl
  | sim => rw [exec_sim_next h]; rfl
  | lxi rp _ | inx rp | dcx rp => cases h; cases rp <;> rfl
  | sta _ | stax _ => cases h; rw [State.write8_eq]; rfl
  | shld _ => cases h; rw [State.write16_eq]; rfl
  | lhld _ => cases h; rw [State.dmaTurn_eq]; rfl
  | xthl =>
    rw [exec_xthl] at h
    cases h
    rw [State.exchangeStores_eq]
    rfl
  | push _ => cases h; rw [State.push16_eq]; rfl
  | pop rp => cases h; rw [State.drop16_eq]; cases rp <;> rfl
  | jc _ | jm _ | jnc _ | jnz _ | jp _ | jpe _ | jpo _ | jz _ => cases h; rw [State.jumpIf_eq]; rfl
  | call _ | rst _ => cases h; rw [State.callTo_eq, State.push16_eq]; rfl
  | cc _ | cm _ | cnc _ | cnz _ | cp _ | cpe _ | cpo _ | cz _ => cases h; rw [State.callIf_eq]; rfl
  | ret => cases h; rw [State.returnFrom_eq]; rfl
  | rc | rm | rnc | rnz | rp | rpe | rpo | rz => cases h; rw [State.returnIf_eq]; rfl
  | _ => cases h; rfl

/-! ### Field by field -/

section
variable {i : Instr} {s t : State}

theorem exec_flags (h : exec i s = .next t) (hi : writesFlags i = false) : t.flags = s.flags := by
  rw [exec_written h]; simp [written, hi]

theorem exec_sp (h : exec i s = .next t) (hi : movesSp i = false) : t.sp = s.sp := by
  rw [exec_written h]; simp [written, hi]

theorem exec_pc (h : exec i s = .next t) (hi : writesPc i = false) : t.pc = s.pc := by
  rw [exec_written h]; simp [written, hi]

theorem exec_ctl (h : exec i s = .next t) (hi : writesControl i = false) : t.ctl = s.ctl := by
  rw [exec_written h]; simp [written, hi]

theorem exec_io (h : exec i s = .next t) (hi : accessesPort i = false) : t.io = s.io := by
  rw [exec_written h]; simp [written, hi]

theorem exec_mem (h : exec i s = .next t) (hstore : storesMemory i = false) (hread : readsTwoBytes i = false) :
    t.mem = s.mem := by
  rw [exec_written h]; simp [written, hstore, hread]

theorem exec_platform (h : exec i s = .next t) : t.platform = s.platform := by
  rw [exec_written h]; rfl

theorem exec_env (h : exec i s = .next t) : t.env = s.env := by
  rw [exec_written h]; rfl

theorem exec_tick (h : exec i s = .next t) : t.tick = s.tick := by
  rw [exec_written h]; rfl

end

/-! ### Flags (R33) -/

/-- Settles O41: outside the table of R33 no flag is written; the writers of CY alone, and INR and DCR, by the flags
each gives its next state. -/
theorem onlyTheListedInstructionsWriteFlags : Obligations.OnlyTheListedInstructionsWriteFlags := by
  intro i s t h
  refine ⟨exec_flags h, fun hcarry => ?_, fun o ho => ?_⟩
  · cases i with
    | dad _ | rlc | rrc | ral | rar | stc | cmc => cases h; rfl
    | _ => cases hcarry
  · rcases ho with rfl | rfl <;> cases h <;> rfl

/-! ### Control bits, the 8085's bits, ports and parameters -/

/-- Settles O42. -/
theorem controlStateFrameOfEveryInstruction : Obligations.ControlStateFrameOfEveryInstruction := by
  intro i s t h
  refine ⟨fun hdi hei hhlt => exec_ctl h ?_, fun hsim => exec_ext_of_ne_sim hsim h, fun hport => exec_io h ?_,
    exec_platform h, exec_env h, exec_tick h⟩
  · cases i with
    | di => exact absurd rfl hdi
    | ei => exact absurd rfl hei
    | hlt => exact absurd rfl hhlt
    | _ => rfl
  · cases i with
    | inPort port => exact absurd rfl (hport port).1
    | outPort port => exact absurd rfl (hport port).2
    | _ => rfl

/-! ### Memory, SP and pc -/

theorem State.returnIf_mem (s : State) (cond : Cond) :
    (s.returnIf cond).mem = s.mem ∨ (s.returnIf cond).mem = (s.dmaTurn .data2).mem := by
  unfold State.returnIf
  split
  · rw [State.returnFrom_eq]; exact .inr rfl
  · exact .inl rfl

/-- An instruction that reads two bytes and writes none leaves memory as it was, where its condition fails, or as the
DMA agent's turn between the reads leaves it. -/
theorem exec_mem_of_readsTwoBytes {i : Instr} {s t : State} (h : exec i s = .next t) (hi : readsTwoBytes i = true) :
    t.mem = s.mem ∨ t.mem = (s.dmaTurn .data2).mem := by
  cases i with
  | lhld _ => cases h; exact .inr rfl
  | pop rp => cases h; rw [State.writeStackPair_eq]; exact .inr rfl
  | ret => cases h; rw [State.returnFrom_eq]; exact .inr rfl
  | rc | rm | rnc | rnz | rp | rpe | rpo | rz => cases h; exact State.returnIf_mem s _
  | _ => cases hi

/-- Settles O43. -/
theorem memoryStackPointerAndPcFrameOfEveryInstruction :
    Obligations.MemoryStackPointerAndPcFrameOfEveryInstruction := by
  intro i s t h
  refine ⟨fun hstore => ?_, exec_sp h, exec_pc h⟩
  cases hread : readsTwoBytes i with
  | false => exact .inl (exec_mem h hstore hread)
  | true => exact (exec_mem_of_readsTwoBytes h hread).imp_right fun hmem => ⟨rfl, hmem⟩

/-! ### The canonical form of memory -/

theorem State.callTo_wf {s : State} (h : Memory.wf s.mem = true) (w : Word) : Memory.wf (s.callTo w).mem = true := by
  rw [State.callTo_eq]; exact State.push16_wf h s.pc

theorem State.callIf_wf {s : State} (h : Memory.wf s.mem = true) (cond : Cond) (w : Word) :
    Memory.wf (s.callIf cond w).mem = true := by
  unfold State.callIf
  split
  · exact State.callTo_wf h w
  · exact h

theorem exec_wf_of_storesMemory {i : Instr} {s t : State} (hwf : Memory.wf s.mem = true) (h : exec i s = .next t)
    (hi : storesMemory i = true) : Memory.wf t.mem = true := by
  cases i with
  | mov dst src => rw [exec_mov_next h]; exact State.writeOperand_wf hwf _ _
  | mvi _ _ => cases h; exact State.writeOperand_wf hwf _ _
  | inr _ | dcr _ => cases h; exact State.modifyOperand_wf hwf _ _
  | sta _ | stax _ => cases h; exact State.write8_wf hwf _ _
  | shld _ => cases h; exact State.write16_wf hwf _ _
  | push _ => cases h; exact State.push16_wf hwf _
  | call _ | rst _ => cases h; exact State.callTo_wf hwf _
  | cc _ | cm _ | cnc _ | cnz _ | cp _ | cpe _ | cpo _ | cz _ => cases h; exact State.callIf_wf hwf _ _
  | xthl =>
    rw [exec_xthl] at h
    cases h
    rw [State.setHL_mem]
    exact State.exchangeStores_wf hwf
  | _ => cases hi

/-- Every instruction keeps the canonical form of memory. -/
theorem exec_wf {i : Instr} {s t : State} (hwf : Memory.wf s.mem = true) (h : exec i s = .next t) :
    Memory.wf t.mem = true := by
  cases hstore : storesMemory i with
  | true => exact exec_wf_of_storesMemory hwf h hstore
  | false =>
    cases hread : readsTwoBytes i with
    | false => rwa [exec_mem h hstore hread]
    | true =>
      rcases exec_mem_of_readsTwoBytes h hread with hmem | hmem <;> rw [hmem]
      · exact hwf
      · exact State.dmaTurn_wf hwf _

/-! ### Completion -/

/-- A well-formed instruction has no refusal (R250). -/
theorem exec_completes {i : Instr} {s : State} (h : i.wellFormed s.variant = true) : ∃ t, exec i s = .next t := by
  cases i with
  | mov dst src =>
    have hmm : ¬ (dst = .m ∧ src = .m) := by
      rintro ⟨rfl, rfl⟩
      cases h
    exact ⟨_, if_neg hmm⟩
  | rim =>
    have hv : s.variant = .i8085 := of_decide_eq_true h
    exact ⟨s.setA s.rimByte, by simp [exec, execRim, hv]⟩
  | sim =>
    have hv : s.variant = .i8085 := of_decide_eq_true h
    exact ⟨{ s with ext := s.ext.setBy s.regs.a }, by simp [exec, execSim, hv]⟩
  | _ => exact ⟨_, rfl⟩

theorem operands_of_ill_formed_mov {v : Variant} {dst src : Operand8}
    (h : (Instr.mov dst src).wellFormed v = false) : dst = .m ∧ src = .m := by
  cases dst <;> cases src <;> first | exact ⟨rfl, rfl⟩ | cases h

theorem exec_rim_8080 {s : State} (h : s.variant = .i8080) : exec .rim s = .refused (.undefinedOpcode 0x20) := by
  simp [exec, execRim, h]

theorem exec_sim_8080 {s : State} (h : s.variant = .i8080) : exec .sim s = .refused (.undefinedOpcode 0x30) := by
  simp [exec, execSim, h]

/-- Settles O40: the ill-formed terms are MOV M,M, and RIM and SIM on the 8080. -/
theorem wellFormedInstructionsComplete : Obligations.WellFormedInstructionsComplete := by
  intro i s
  refine ⟨exec_completes, fun hill => ?_⟩
  have h8080 : ∀ {v : Variant}, decide (v = .i8085) = false → v = .i8080 := by
    rintro (_ | _) hv
    · rfl
    · cases hv
  cases i with
  | mov dst src =>
    obtain ⟨rfl, rfl⟩ := operands_of_ill_formed_mov hill
    exact .inl rfl
  | rim => exact .inr (.inl (exec_rim_8080 (h8080 hill)))
  | sim => exact .inr (.inr (exec_sim_8080 (h8080 hill)))
  | _ => cases hill

end Sys2Proof.Machine
end

/-! ## Proofs: what a step runs and what it leaves -/

section
/-! The branches of a step (R9), each with the instruction it runs, if any. From that the invariant, the halt, the
completion rule and the EI delay. -/

namespace Sys2Proof.Machine

/-! ### Each branch of the step -/

theorem State.act_of_reset {s : State} (h : s.now.reset = true) : s.act = .next s.applyReset :=
  if_pos h

theorem State.act_of_accepted {s : State} {src : IntSource} (hreset : s.now.reset = false)
    (hacc : s.accepted = some src) : s.act = s.enter src := by
  simp [State.act, hreset, hacc]

theorem State.act_of_halted {s : State} (hreset : s.now.reset = false) (hacc : s.accepted = none)
    (hhalted : s.ctl.halted = true) : s.act = .next s.idle := by
  simp [State.act, hreset, hacc, hhalted]

theorem State.act_of_fetch {s : State} (hreset : s.now.reset = false) (hacc : s.accepted = none)
    (hhalted : s.ctl.halted = false) : s.act = s.fetchExecute := by
  simp [State.act, hreset, hacc, hhalted]

theorem State.no_reset_of_taken {s : State} {src : IntSource} (h : s.taken = some src) : s.now.reset = false := by
  cases hreset : s.now.reset with
  | false => rfl
  | true => simp [State.taken, hreset] at h

theorem step_of_reset {s : State} (h : s.now.reset = true) : step s = .next s.boundary.applyReset.endStep :=
  congrArg (mapNext State.endStep) (State.act_of_reset (by rwa [State.boundary_now]))

theorem step_of_taken {s : State} {src : IntSource} (h : s.taken = some src) :
    step s = mapNext State.endStep (s.boundary.enter src) := by
  have hreset := State.no_reset_of_taken h
  rw [State.taken_of_no_reset hreset] at h
  exact congrArg (mapNext State.endStep) (State.act_of_accepted (by rwa [State.boundary_now]) h)

theorem step_of_halted {s : State} (hreset : s.now.reset = false) (htaken : s.taken = none)
    (hhalted : s.ctl.halted = true) : step s = .next s.boundary.idle.endStep := by
  rw [State.taken_of_no_reset hreset] at htaken
  exact congrArg (mapNext State.endStep)
    (State.act_of_halted (by rwa [State.boundary_now]) htaken (by rwa [State.boundary_ctl]))

theorem step_of_fetch {s : State} (hreset : s.now.reset = false) (htaken : s.taken = none)
    (hhalted : s.ctl.halted = false) : step s = mapNext State.endStep s.boundary.fetchExecute := by
  rw [State.taken_of_no_reset hreset] at htaken
  exact congrArg (mapNext State.endStep)
    (State.act_of_fetch (by rwa [State.boundary_now]) htaken (by rwa [State.boundary_ctl]))

/-! ### What a step was -/

/-- `r` is the state on which the step from `s` runs its instruction: the state of an accepted INT with the interrupt
recognised (R257), or the state of the boundary after some fetches. -/
def RunsOn (s r : State) : Prop :=
  (s.taken = some .int ∧ r = s.boundary.recognise) ∨
    (s.taken = none ∧ s.ctl.halted = false ∧ ∃ len, r = s.boundary.afterFetch len)

/-- Everything a step that answers next can have been, with what it ran: nothing on a RESET, on a restart entry and on
an idle step, and one instruction otherwise. -/
theorem step_running_cases {s t : State} (h : step s = .next t) :
    (s.now.reset = true ∧ s.running = none ∧ t = s.boundary.applyReset.endStep) ∨
    (∃ src, src ≠ .int ∧ s.taken = some src ∧ s.running = none ∧
      t = ((s.boundary.clearRequest src).enterRestart (restartAddress src)).endStep) ∨
    (s.now.reset = false ∧ s.taken = none ∧ s.ctl.halted = true ∧ s.running = none ∧ t = s.boundary.idle.endStep) ∨
    (∃ i r u, s.running = some i ∧ RunsOn s r ∧ exec i r = .next u ∧
      t = (u.complete s.ctl.eiPending i).endStep) := by
  rcases step_cases h with ⟨hreset, rfl⟩ | ⟨hreset, src, u, hacc, henter, rfl⟩ | ⟨hreset, hacc, hhalted, rfl⟩ |
    ⟨hreset, hacc, hhalted, i, rest, u, hdecode, hexec, rfl⟩
  · exact .inl ⟨hreset, by simp [State.running, hreset], rfl⟩
  · have htaken : s.taken = some src := (State.taken_of_no_reset hreset).trans hacc
    rcases enter_cases henter with ⟨rfl, i, w, hsupplied, hexec, rfl⟩ | ⟨hsrc, rfl⟩
    · rw [State.boundary_variant, State.boundary_now] at hsupplied
      rw [State.boundary_ctl]
      exact .inr (.inr (.inr ⟨i, _, w, (State.running_of_supplied hreset htaken).trans hsupplied,
        .inl ⟨htaken, rfl⟩, hexec, rfl⟩))
    · exact .inr (.inl ⟨src, hsrc, htaken, State.running_of_restart hsrc htaken, rfl⟩)
  · have htaken : s.taken = none := (State.taken_of_no_reset hreset).trans hacc
    exact .inr (.inr (.inl ⟨hreset, htaken, hhalted, State.running_of_halted htaken hhalted, rfl⟩))
  · have htaken : s.taken = none := (State.taken_of_no_reset hreset).trans hacc
    exact .inr (.inr (.inr ⟨i, _, u, State.running_of_fetched hreset htaken hhalted hdecode,
      .inr ⟨htaken, hhalted, _, rfl⟩, hexec, rfl⟩))

section
variable {s r : State}

theorem RunsOn.halted (h : RunsOn s r) : r.ctl.halted = false := by
  rcases h with ⟨-, rfl⟩ | ⟨-, hhalted, len, rfl⟩
  · rfl
  · simpa using hhalted

/-- No instruction runs in the halt, unless an interrupt has ended it. -/
theorem RunsOn.not_idle (h : RunsOn s r) : ¬ (s.ctl.halted = true ∧ s.taken = none) := by
  rcases h with ⟨htaken, -⟩ | ⟨-, hhalted, -⟩
  · simp [htaken]
  · simp [hhalted]

theorem RunsOn.inte_iff (h : RunsOn s r) : r.ctl.inte = true ↔ s.ctl.inte = true ∧ s.taken ≠ some .int := by
  rcases h with ⟨htaken, rfl⟩ | ⟨htaken, -, len, rfl⟩ <;> simp [htaken]

theorem RunsOn.wf (h : RunsOn s r) (hwf : Memory.wf s.mem = true) : Memory.wf r.mem = true := by
  rcases h with ⟨-, rfl⟩ | ⟨-, -, len, rfl⟩
  · exact State.boundary_wf hwf
  · exact State.afterFetch_wf (State.boundary_wf hwf) len

end

/-! ### The control bits that an instruction writes (R220 to R222) -/

theorem exec_halted_iff {i : Instr} {r u : State} (h : exec i r = .next u) :
    u.ctl.halted = true ↔ i = .hlt ∨ r.ctl.halted = true := by
  cases i with
  | di | ei | hlt => cases h; simp
  | _ => rw [exec_ctl h rfl]; simp

theorem exec_inte_iff {i : Instr} {r u : State} (h : exec i r = .next u) :
    u.ctl.inte = true ↔ i ≠ .di ∧ r.ctl.inte = true := by
  cases i with
  | di | ei | hlt => cases h; simp
  | _ => rw [exec_ctl h rfl]; simp

/-! ### The end of an instruction (R256) -/

/-- The control bits after a step that ran `i` on `r`. -/
theorem completed_ctl {i : Instr} {r u : State} {p : Bool} (h : exec i r = .next u) :
    (u.complete p i).endStep.ctl.eiPending = decide (i = .ei) ∧
      (u.complete p i).endStep.ctl.intInhibit = decide (i = .ei ∨ i = .di) ∧
      ((u.complete p i).endStep.ctl.halted = true ↔ i = .hlt ∨ r.ctl.halted = true) ∧
      ((u.complete p i).endStep.ctl.inte = true ↔ i ≠ .di ∧ (p = true ∨ r.ctl.inte = true)) := by
  rw [State.endStep_ctl, State.complete_ctl]
  refine ⟨?_, rfl, exec_halted_iff h, ?_⟩
  · by_cases hi : i = .ei
    · subst hi
      cases h
      rfl
    · simp [hi]
  · by_cases hp : p = true ∧ i ≠ .di
    · simp [hp]
    · rw [if_neg hp, exec_inte_iff h]
      exact and_congr_right fun hi => ⟨.inr, fun hor => hor.resolve_left fun hp' => hp ⟨hp', hi⟩⟩

theorem State.enterRestart_ctl (s : State) (w : Word) : (s.enterRestart w).ctl =
    { inte := false, eiPending := false, intInhibit := false, halted := false } := by
  unfold State.enterRestart
  simp [State.callTo_eq]

/-- Settles O56, by cases on what the step was: only a step that ran an instruction claims the first part, and only a
completion can set INTE. -/
theorem completionRuleSetsTheInterruptBits : Obligations.CompletionRuleSetsTheInterruptBits := by
  intro s t h
  rcases step_running_cases h with ⟨-, hrun, rfl⟩ | ⟨src, -, -, hrun, rfl⟩ | ⟨-, -, -, hrun, rfl⟩ |
    ⟨i, r, u, hrun, hr, hexec, rfl⟩
  · exact ⟨by simp [hrun], by simp⟩
  · exact ⟨by simp [hrun], by simp [State.enterRestart_ctl]⟩
  · exact ⟨by simp [hrun], fun ht => .inl (by simpa using ht)⟩
  · obtain ⟨hpending, hinhibit, -, hinte⟩ := completed_ctl (p := s.ctl.eiPending) hexec
    rw [hr.inte_iff] at hinte
    refine ⟨fun j hj => ?_, fun ht => ?_⟩
    · obtain rfl : i = j := Option.some.inj (hrun.symm.trans hj)
      exact ⟨hpending, hinhibit, hinte⟩
    · exact (hinte.mp ht).2.symm.imp_left And.left

/-- Settles O55: HLT sets the halt, RESET and an entry end it, an idle step keeps it. -/
theorem haltedIsSetByHltAndClearedByInterruptOrReset :
    Obligations.HaltedIsSetByHltAndClearedByInterruptOrReset := by
  intro s
  refine ⟨fun t h => ?_, fun hhalted htaken hreset => step_of_halted hreset htaken hhalted⟩
  rcases step_running_cases h with ⟨hreset, hrun, rfl⟩ | ⟨src, -, htaken, hrun, rfl⟩ |
    ⟨hreset, htaken, hhalted, hrun, rfl⟩ | ⟨i, r, u, hrun, hr, hexec, rfl⟩
  · simp [hrun, hreset]
  · simp [hrun, htaken, State.enterRestart_ctl]
  · simp [hreset, htaken, hhalted]
  · obtain ⟨-, -, hhalted, -⟩ := completed_ctl (p := s.ctl.eiPending) hexec
    have hidle : ¬ (s.ctl.halted = true ∧ s.taken = none ∧ s.now.reset = false) :=
      fun ⟨hh, ht, _⟩ => hr.not_idle ⟨hh, ht⟩
    rw [hhalted, hr.halted, hrun]
    simp [hidle]

/-! ### The EI delay (R35, R255) -/

theorem State.taken_of_inhibited {s : State} (h : s.ctl.intInhibit = true) : s.taken = none := by
  unfold State.taken
  split
  · rfl
  · exact if_pos (by simp [h])

/-- Settles O57: the completion of EI or DI sets IntInhibit, and that of EI leaves EiPending for the next one. -/
theorem nothingIsAcceptedRightAfterEiOrDi : Obligations.NothingIsAcceptedRightAfterEiOrDi := by
  intro s t h
  have hbits := (completionRuleSetsTheInterruptBits s t h).1
  refine ⟨fun hrun => State.taken_of_inhibited ?_, fun hrun i u hnext hstep => ?_⟩
  · rcases hrun with hrun | hrun <;> exact (hbits _ hrun).2.1
  · obtain ⟨hpending, -⟩ := hbits _ hrun
    obtain ⟨-, -, hinte⟩ := (completionRuleSetsTheInterruptBits t u hstep).1 i hnext
    simpa [hpending] using hinte

/-! ### The invariant -/

theorem State.clearRequest_wf {s : State} (h : Memory.wf s.mem = true) (src : IntSource) :
    Memory.wf (s.clearRequest src).mem = true := by
  unfold State.clearRequest
  split <;> exact h

theorem State.enterRestart_wf {s : State} (h : Memory.wf s.mem = true) (w : Word) :
    Memory.wf (s.enterRestart w).mem = true :=
  State.callTo_wf (s := s.recognise) h w

theorem step_wf {s t : State} (hwf : Memory.wf s.mem = true) (h : step s = .next t) : Memory.wf t.mem = true := by
  have hboundary := State.boundary_wf hwf
  rcases step_running_cases h with ⟨-, -, rfl⟩ | ⟨src, -, -, -, rfl⟩ | ⟨-, -, -, -, rfl⟩ | ⟨i, r, u, -, hr, hexec, rfl⟩
  · exact hboundary
  · exact State.enterRestart_wf (State.clearRequest_wf hboundary src) (restartAddress src)
  · exact hboundary
  · exact (exec_wf (hr.wf hwf) hexec : Memory.wf u.mem = true)

/-- Settles O58. A completion leaves EiPending after EI alone, with IntInhibit, and the halt after HLT alone, without
it; an idle step clears IntInhibit, and the invariant says that no enable was pending. -/
theorem everyStepKeepsTheInvariant : Obligations.EveryStepKeepsTheInvariant := by
  rintro s t ⟨hwf, hpending, hhalt⟩ h
  refine ⟨step_wf hwf h, ?_⟩
  rcases step_running_cases h with ⟨-, -, rfl⟩ | ⟨src, -, -, -, rfl⟩ | ⟨-, -, hhalted, -, rfl⟩ |
    ⟨i, r, u, -, hr, hexec, rfl⟩
  · simp
  · simp [State.enterRestart_ctl]
  · have hnone : s.ctl.eiPending = false := by
      by_contra hp
      have := hpending (by simpa using hp)
      simp [hhalt hhalted] at this
    simp [hnone]
  · obtain ⟨hp, hinhibit, hhalted, -⟩ := completed_ctl (p := s.ctl.eiPending) hexec
    rw [hp, hinhibit, hhalted, hr.halted]
    refine ⟨fun hi => ?_, fun hi => ?_⟩
    · exact decide_eq_true (.inl (of_decide_eq_true hi))
    · obtain rfl : i = .hlt := by simpa using hi
      rfl

/-- Settles O59. -/
theorem resetStateHasTheInvariant : Obligations.ResetStateHasTheInvariant :=
  ⟨State.reset_mem_wf, nofun, nofun⟩

/-! ### The verdict Stopped (R251, R272) -/

/-- `State.stopped` as a conjunction: halted, INTE and EiPending 0, and no TRAP among the inputs to come of an 8085. -/
theorem State.stopped_iff (s : State) : s.stopped = true ↔
    s.ctl.halted = true ∧ s.ctl.inte = false ∧ s.ctl.eiPending = false ∧
      (s.variant = .i8085 → ∀ x ∈ s.env, x.trap = false) := by
  simp [State.stopped, State.trapArrives, and_assoc, imp_iff_not_or]

/-- What holds of every input to come, and of the quiet one, holds of the one now. -/
theorem State.now_of_env {P : Inputs → Prop} {s : State} (henv : ∀ x ∈ s.env, P x) (hquiet : P Inputs.quiet) :
    P s.now := by
  unfold State.now
  cases hs : s.env with
  | nil => exact hquiet
  | cons x rest => exact henv x (by simp [hs])

theorem State.taken_of_stopped {s : State} (h : s.stopped = true) : s.taken = none := by
  obtain ⟨-, hinte, -, htrap⟩ := s.stopped_iff.mp h
  have hstands : ∀ src, ¬ RequestStands s.boundary src := by
    intro src
    cases src with
    | trap =>
      rintro ⟨hv, hnow⟩
      rw [State.boundary_variant] at hv
      rw [State.boundary_now, State.now_of_env (P := fun x => x.trap = false) (htrap hv) rfl] at hnow
      cases hnow
    | _ => simp [RequestStands, hinte]
  have hnone : s.boundary.accepted = none := by
    unfold State.accepted
    split
    · rfl
    · refine List.find?_eq_none.mpr fun src _ hacc => hstands src ?_
      exact (s.boundary.acceptable_iff_requestStands src).mp hacc
  unfold State.taken
  split
  · rfl
  · exact hnone

/-- A stopped processor with no RESET to come idles through the step and is stopped after it. -/
theorem step_of_stopped {s : State} (h : s.stopped = true) (henv : ∀ x ∈ s.env, x.reset = false) :
    step s = .next s.boundary.idle.endStep ∧ s.boundary.idle.endStep.stopped = true := by
  have hreset : s.now.reset = false := State.now_of_env (P := fun x => x.reset = false) henv rfl
  obtain ⟨hhalted, hinte, hpending, htrap⟩ := s.stopped_iff.mp h
  refine ⟨step_of_halted hreset (State.taken_of_stopped h) hhalted, (State.stopped_iff _).mpr ?_⟩
  refine ⟨by simpa using hhalted, by simpa using hinte, by simpa using hpending, fun hv x hx => ?_⟩
  have hv' : s.variant = .i8085 := by simpa [State.variant] using hv
  exact htrap hv' x (List.mem_of_mem_tail (by simpa using hx))

theorem core_run_succ {s t : State} (h : step s = .next t) (n : Nat) :
    Sys2Proof.core.run (n + 1) s = Sys2Proof.core.run n t := by
  have hcore : Sys2Proof.core.step s = .next t := h
  simp only [Host.Core.run]
  rw [hcore]

/-- Settles O60, by induction on the number of steps. -/
theorem haltedWithInterruptsOffStaysHalted : Obligations.HaltedWithInterruptsOffStaysHalted := by
  intro n
  induction n with
  | zero => exact fun s h _ => ⟨s, rfl, h, rfl, rfl, rfl, rfl, rfl⟩
  | succ n ih =>
    intro s h henv
    obtain ⟨hstep, hstopped⟩ := step_of_stopped h henv
    have htail : ∀ x ∈ s.boundary.idle.endStep.env, x.reset = false :=
      fun x hx => henv x (List.mem_of_mem_tail (by simpa using hx))
    obtain ⟨t, hrun, ht, hregs, hflags, hsp, hpc, hio⟩ := ih _ hstopped htail
    refine ⟨t, ?_, ht, by simpa using hregs, by simpa using hflags, by simpa using hsp, by simpa using hpc,
      by simpa using hio⟩
    exact (core_run_succ hstep n).trans hrun

end Sys2Proof.Machine
end

/-! ## Proofs: the fetched instruction, RESET and the priority of requests -/

section
/-! The bytes that a step fetches are as many as the first one says, so they are exactly the encoding of what they
decode to (R70, R80). -/

namespace Sys2Proof

/-- The bytes of an instruction are as many as its first byte says, for every well-formed one. -/
theorem encode_eq_cons {v : Variant} {i : Instr} (h : i.wellFormed v = true) :
    ∃ b tl, encode i = b :: tl ∧ instrLength b = (encode i).length := by
  have hdecode : decode v (encode i) = .ok (i, []) := by simpa using decode_encode h []
  obtain ⟨b, tl, henc, -, hle, hdrop⟩ := decode_ok_iff.mp hdecode
  have hge : tl.length ≤ instrLength b - 1 := List.drop_eq_nil_iff.mp hdrop.symm
  rcases instrLength_cases b with hb | hb | hb <;> exact ⟨b, tl, henc, by rw [henc, List.length_cons]; omega⟩

end Sys2Proof

namespace Sys2Proof.Machine

/-! ### The bytes fetched -/

theorem State.fetchBytes_length (s : State) : s.fetchBytes.length = instrLength (s.fetch8 s.pc) := by
  rcases instrLength_cases (s.fetch8 s.pc) with h | h | h <;> simp [State.fetchBytes, h]

theorem State.fetchBytes_eq_cons (s : State) : ∃ tl, s.fetchBytes = s.fetch8 s.pc :: tl := by
  rcases instrLength_cases (s.fetch8 s.pc) with h | h | h <;> exact ⟨_, by rw [State.fetchBytes, h]; rfl⟩

/-- What the fetched bytes decode to has all of them as its encoding. -/
theorem State.fetchBytes_eq_encode {s : State} {v : Variant} {i : Instr} {rest : List Byte}
    (h : decode v s.fetchBytes = .ok (i, rest)) : s.fetchBytes = encode i := by
  obtain ⟨tl, hcons⟩ := s.fetchBytes_eq_cons
  have hlen := s.fetchBytes_length
  obtain ⟨-, henc⟩ := decodedBytesAreTheInstructionsEncoding v _ i rest h
  obtain ⟨b1, tl', hcons', -, -, rfl⟩ := decode_ok_iff.mp h
  obtain ⟨rfl, rfl⟩ : s.fetch8 s.pc = b1 ∧ tl = tl' := by simpa [hcons] using hcons'
  rw [hcons, List.length_cons] at hlen
  rw [← henc, List.drop_eq_nil_of_le (by omega), List.append_nil]

/-- Where each byte of an encoding stands when it is fetched, it is what is fetched. -/
theorem State.fetchBytes_of_encoding {s : State} {v : Variant} {i : Instr} (hwf : i.wellFormed v = true)
    (h : ∀ k b, (encode i)[k]? = some b → (s.beforeByte k).fetch8 (s.pc + BitVec.ofNat 16 k) = b) :
    s.fetchBytes = encode i := by
  obtain ⟨b, tl, henc, hlen⟩ := encode_eq_cons hwf
  have hfirst : s.fetch8 s.pc = b := by
    have h0 : s.fetch8 (s.pc + 0#16) = b := h 0 b (by rw [henc]; rfl)
    rwa [BitVec.add_zero] at h0
  rw [State.fetchBytes, hfirst, hlen]
  rw [henc] at h ⊢
  rcases tl with _ | ⟨b2, _ | ⟨b3, _ | _⟩⟩
  · rfl
  · have hsecond : (s.beforeByte 1).fetch8 (s.pc + 1) = b2 := h 1 b2 rfl
    rw [hsecond]; rfl
  · have hsecond : (s.beforeByte 1).fetch8 (s.pc + 1) = b2 := h 1 b2 rfl
    have hthird : (s.beforeByte 2).fetch8 (s.pc + 2) = b3 := h 2 b3 rfl
    rw [hsecond, hthird]; rfl
  · rw [henc] at hlen
    rcases instrLength_cases b with hb | hb | hb <;> simp [hb] at hlen

/-! ### A step that fetches -/

theorem runInstr_next {i : Instr} {s u : State} (h : exec i s = .next u) :
    runInstr i s = .next (u.complete s.ctl.eiPending i) := by
  rw [runInstr, h]
  rfl

theorem State.fetchExecute_of_decode {s : State} {i : Instr} {rest : List Byte} {u : State}
    (hdecode : decode s.variant s.fetchBytes = .ok (i, rest))
    (hexec : exec i (s.afterFetch s.fetchBytes.length) = .next u) :
    s.fetchExecute = .next (u.complete s.ctl.eiPending i) := by
  rw [State.fetchExecute, hdecode]
  exact (runInstr_next hexec).trans (by rw [State.afterFetch_ctl])

/-- Settles O44. -/
theorem stepRunsTheDecodedInstruction : Obligations.StepRunsTheDecodedInstruction := by
  intro s i rest hreset htaken hhalted hdecode u hexec
  rw [← State.fetchBytes_eq_encode hdecode] at hexec
  rw [← State.boundary_variant] at hdecode
  rw [step_of_fetch hreset htaken hhalted, State.fetchExecute_of_decode hdecode hexec, State.boundary_ctl]
  rfl

/-- Settles O45: the encoding is what is fetched, it decodes to its instruction, and that completes. -/
theorem stepRunsTheEncodingAtPc : Obligations.StepRunsTheEncodingAtPc := by
  intro s i hreset htaken hhalted hwf hbytes
  have hfetch : s.boundary.fetchBytes = encode i :=
    State.fetchBytes_of_encoding hwf (by simpa only [State.boundary_pc] using hbytes)
  have hdecode : decode s.variant s.boundary.fetchBytes = .ok (i, []) := by
    rw [hfetch, ← List.append_nil (encode i)]
    exact decode_encode hwf []
  have hcompletes : i.wellFormed (s.boundary.afterFetch (encode i).length).variant = true := by
    rwa [State.afterFetch_variant, State.boundary_variant]
  obtain ⟨u, hexec⟩ := exec_completes hcompletes
  exact ⟨u, hexec, stepRunsTheDecodedInstruction s i [] hreset htaken hhalted hdecode u hexec⟩

/-- Settles O46. -/
theorem stepRefusesAnUndefinedFirstByte : Obligations.StepRefusesAnUndefinedFirstByte := by
  rintro s b hreset htaken hhalted rfl hundefined
  obtain ⟨tl, hcons⟩ := s.boundary.fetchBytes_eq_cons
  rw [State.boundary_pc] at hcons
  have hdecode : decode s.boundary.variant s.boundary.fetchBytes =
      .error (.undefinedOpcode (s.boundary.fetch8 s.pc)) := by
    rw [State.boundary_variant, hcons]
    exact decode_of_undefined hundefined tl
  rw [step_of_fetch hreset htaken hhalted, State.fetchExecute, hdecode, State.boundary_pc]
  rfl

/-! ### RESET (R274, R290) -/

/-- Settles O47. -/
theorem resetStateHoldsTheStatedValues : Obligations.ResetStateHoldsTheStatedValues :=
  ⟨rfl, rfl, rfl, rfl, rfl, rfl⟩

/-- Settles O48: a step with the RESET signal applies it to the state of the boundary. -/
theorem resetSignalForcesItsValuesInAnyState : Obligations.ResetSignalForcesItsValuesInAnyState := by
  intro s hreset
  have hflipFlop : s.variant = .i8085 → s.boundary.applyReset.ext.r75 = false := fun hv =>
    State.applyReset_flipFlop (by rwa [State.boundary_variant])
  exact ⟨_, step_of_reset hreset, rfl, rfl, hflipFlop, s.boundary_mem, s.boundary_platform, s.boundary_io⟩

/-! ### The order of the requests (R261) -/

/-- What is accepted is the first acceptable source of the platform's list and the sources after it. -/
theorem State.find_of_accepted {s : State} {src : IntSource} (h : s.accepted = some src) :
    (s.platform.priority ++ allSources).find? s.acceptable = some src := by
  unfold State.accepted at h
  split at h
  · cases h
  · exact h

/-- Settles O50: the search comes to the earlier sources first, and passes only those that do not stand. -/
theorem theTakenRequestHasThePriority : Obligations.TheTakenRequestHasThePriority := by
  intro s src before after horder hsrc htaken x hx hstands
  have hacc : s.boundary.accepted = some src :=
    (State.taken_of_no_reset (State.no_reset_of_taken htaken)).symm.trans htaken
  have hfind := State.find_of_accepted hacc
  rw [State.boundary_platform, horder, List.append_assoc, List.find?_append] at hfind
  cases hbefore : before.find? s.boundary.acceptable with
  | none =>
    exact List.find?_eq_none.mp hbefore x hx ((s.boundary.acceptable_iff_requestStands x).mpr hstands)
  | some y =>
    obtain rfl : y = src := by simpa [hbefore] using hfind
    exact hsrc (List.mem_of_find?_eq_some hbefore)

end Sys2Proof.Machine
end

/-! ## Proofs: stores, pushes and pops -/

section
/-! What one store, two stores with a turn of the DMA agent between them, and a push leave at every address, in the
terms of the statements; and each instruction that stores or loads as a use of it. -/

namespace Sys2Proof.Machine

/-! ### Frames of the shared operations -/

theorem SameRest.trans {s t u : State} (h : SameRest s t) (h' : SameRest t u) : SameRest s u := by
  obtain ⟨hctl, hext, hplatform, hio, henv, htick⟩ := h
  obtain ⟨hctl', hext', hplatform', hio', henv', htick'⟩ := h'
  exact ⟨hctl'.trans hctl, hext'.trans hext, hplatform'.trans hplatform, hio'.trans hio, henv'.trans henv,
    htick'.trans htick⟩

theorem SameMemory.of_eq {s t : State} (hmem : t.mem = s.mem) (hrest : SameRest s t) : SameMemory s t := by
  obtain ⟨-, -, hplatform, -, -, htick⟩ := hrest
  exact State.read8_congr hmem hplatform htick

theorem State.write8_sameRest (s : State) (a : Word) (v : Byte) : SameRest s (s.write8 a v) := by
  simp [SameRest]

theorem State.dmaTurn_sameRest (s : State) (g : BusGap) : SameRest s (s.dmaTurn g) := by
  simp [SameRest]

theorem State.push16_sameRest (s : State) (v : Word) : SameRest s (s.push16 v) := by
  simp [SameRest]

theorem State.write16_sameRest (s : State) (a v : Word) : SameRest s (s.write16 a v) := by
  rw [State.write16_eq]
  exact ⟨rfl, rfl, rfl, rfl, rfl, rfl⟩

/-- No write of the agent at `x` in its turn: nothing that `lastDma` finds. -/
theorem not_dmaTouches_iff {s : State} {g : BusGap} {x : Word} :
    ¬ DmaTouches s g x ↔ lastDma (s.dmaAt g) x = none :=
  (lastDma_none _ _).symm

/-- A turn leaves a byte that it does not touch. -/
theorem State.read8_dmaTurn_of_untouched {s : State} (hwf : Memory.wf s.mem = true) {g : BusGap} {x : Word}
    (h : ¬ DmaTouches s g x) : (s.dmaTurn g).read8 x = s.read8 x := by
  rw [State.read8_dmaTurn hwf, not_dmaTouches_iff.mp h]
  simp

/-- Where there is something, a fetch gives the byte that a data read gives (R62). -/
theorem State.fetch8_eq_read8 {s : State} {x : Word} (h : s.kindAt x = .ram) : s.fetch8 x = s.read8 x := by
  simp [State.fetch8, State.read8, State.readAs, h]

/-! ### One store -/

theorem State.write8_takesByte {s : State} (hwf : Memory.wf s.mem = true) (x : Word) (v : Byte) :
    TakesByte s (s.write8 x v) x v := by
  intro hram
  rw [State.read8_write8 hwf, if_pos ⟨rfl, hram⟩]

theorem State.write8_sameMemoryBut {s : State} (hwf : Memory.wf s.mem = true) (x : Word) (v : Byte) :
    SameMemoryBut s (s.write8 x v) [x] := by
  intro y hy
  rw [State.read8_write8 hwf, if_neg fun h => hy (List.mem_singleton.mpr h.1)]

/-- A store where the memory map puts no RAM is ignored (D6). -/
theorem State.write8_of_not_ram {s : State} {a : Word} (h : s.kindAt a ≠ .ram) (b : Byte) : s.write8 a b = s := by
  unfold State.write8
  split
  · contradiction
  · rfl

theorem storesByte_of_write8 {s : State} {i : Instr} {x : Word} {v : Byte} (hwf : Memory.wf s.mem = true)
    (hexec : exec i s = .next (s.write8 x v)) : StoresByte s i x v :=
  ⟨_, hexec, State.write8_takesByte hwf x v, State.write8_sameMemoryBut hwf x v, s.write8_regs x v, s.write8_flags x v,
    s.write8_sp x v, s.write8_pc x v, s.write8_sameRest x v⟩

/-! ### Two stores with a turn of the DMA agent between them -/

/-- What memory reads after `v1` is stored at `x1`, the agent has its turn at `g`, and `v2` is stored at `x2`. -/
def TwoStores (s t : State) (g : BusGap) (x1 : Word) (v1 : Byte) (x2 : Word) (v2 : Byte) : Prop :=
  ∀ x : Word, t.read8 x =
    if x = x2 ∧ s.kindAt x = .ram then v2
    else if x = x1 ∧ s.kindAt x = .ram ∧ lastDma (s.dmaAt g) x1 = none then v1
    else (s.dmaTurn g).read8 x

section
variable {s t : State} {g : BusGap} {x1 x2 : Word} {v1 v2 : Byte}

theorem TwoStores.takesLast (h : TwoStores s t g x1 v1 x2 v2) : TakesByte s t x2 v2 := by
  intro hram
  rw [h, if_pos ⟨rfl, hram⟩]

theorem TwoStores.takesFirst (h : TwoStores s t g x1 v1 x2 v2) (hne : x1 ≠ x2) : TakesByteBefore s t g x1 v1 := by
  intro hram
  have hread := h x1
  rw [if_neg fun e => hne e.1] at hread
  refine ⟨fun hfree => ?_, fun htouched => ?_⟩
  · rw [hread, if_pos ⟨rfl, hram, not_dmaTouches_iff.mp hfree⟩]
  · rw [hread, if_neg fun e => not_dmaTouches_iff.mpr e.2.2 htouched]

theorem TwoStores.sameElsewhere (h : TwoStores s t g x1 v1 x2 v2) {stored : List Word} (h1 : x1 ∈ stored)
    (h2 : x2 ∈ stored) : SameMemoryBut (s.dmaTurn g) t stored := by
  intro x hx
  have hne1 : x ≠ x1 := fun e => hx (e ▸ h1)
  have hne2 : x ≠ x2 := fun e => hx (e ▸ h2)
  rw [h, if_neg fun e => hne2 e.1, if_neg fun e => hne1 e.1]

end

theorem State.write16_twoStores {s : State} (hwf : Memory.wf s.mem = true) (a v : Word) :
    TwoStores s (s.write16 a v) .data2 a (loByte v) (a + 1) (hiByte v) :=
  State.readAs_write16 hwf .data a v

theorem State.push16_twoStores {s : State} (hwf : Memory.wf s.mem = true) (v : Word) :
    TwoStores s (s.push16 v) .data2 (s.sp - 1) (hiByte v) (s.sp - 2) (loByte v) :=
  State.read8_push16 hwf v

theorem next_ne (a : Word) : a ≠ a + 1 := by bv_omega

theorem below_ne (a : Word) : a - 1 ≠ a - 2 := by bv_omega

theorem State.push16_pushed {s : State} (hwf : Memory.wf s.mem = true) (v : Word) : Pushed s (s.push16 v) v := by
  have h := State.push16_twoStores hwf v
  rw [hiByte_eq, loByte_eq] at h
  exact ⟨s.push16_sp v, h.takesFirst (below_ne _), h.takesLast, h.sameElsewhere (by simp) (by simp)⟩

/-- Settles O7. -/
theorem pushAndPopMoveTwoBytes : Obligations.PushAndPopMoveTwoBytes := fun s w =>
  ⟨fun hwf => State.push16_pushed hwf w, s.push16_regs w, s.push16_flags w, s.push16_pc w, s.push16_sameRest w,
    wordOf_eq _ _, rfl, State.dmaTurn_none⟩

/-! ### A word stored and read back -/

@[simp] theorem State.write16_kindAt (s : State) (a v x : Word) : (s.write16 a v).kindAt x = s.kindAt x := by
  rw [State.write16_eq]; rfl

theorem DmaTouches.congr {s t : State} (henv : t.env = s.env) {g : BusGap} {x : Word} :
    DmaTouches t g x ↔ DmaTouches s g x := by
  simp [DmaTouches, State.dmaAt, State.now, henv]

/-- The two bytes of a word, where the agent's turn between the two reads does not touch the second. -/
theorem State.read16_of_bytes {s : State} (hwf : Memory.wf s.mem = true) {a w : Word} (hlow : s.read8 a = loByte w)
    (hhigh : s.read8 (a + 1) = hiByte w) (hfree : ¬ DmaTouches s .data2 (a + 1)) : s.read16 a = w := by
  rw [State.read16, State.read8_dmaTurn_of_untouched hwf hfree, hlow, hhigh, wordOf_hiByte_loByte]

/-- Settles O6. -/
theorem storesAreReadBackLowByteFirst : Obligations.StoresAreReadBackLowByteFirst := by
  intro s a w b
  refine ⟨fun hwf hram hram' => ?_, fun h => State.write8_of_not_ram h b⟩
  have h := State.write16_twoStores hwf a w
  have hlow : TakesByteBefore s (s.write16 a w) .data2 a (loByte w) := h.takesFirst (next_ne a)
  have hhigh : (s.write16 a w).read8 (a + 1) = hiByte w := h.takesLast hram'
  refine ⟨loByte_eq w ▸ hlow, hiByte_eq w ▸ hhigh, State.fetch8_eq_read8 (by simpa using hram),
    State.fetch8_eq_read8 (by simpa using hram'), fun hfree hfree' => ?_, h.sameElsewhere (by simp) (by simp)⟩
  have henv : (s.write16 a w).env = s.env := (s.write16_sameRest a w).2.2.2.2.1
  exact State.read16_of_bytes (State.write16_wf hwf a w) ((hlow hram).1 hfree) hhigh
    (mt (DmaTouches.congr henv).mp hfree')

/-! ### Register pairs (R21) -/

theorem State.readPair_writePair_same (s : State) (rp : RegPair) (v : Word) : (s.writePair rp v).readPair rp = v := by
  cases rp with
  | sp => rfl
  | b | d | h => exact wordOf_hiByte_loByte v

theorem State.readPair_writePair_of_ne (s : State) {rp x : RegPair} (h : x ≠ rp) (v : Word) :
    (s.writePair rp v).readPair x = s.readPair x := by
  cases rp <;> cases x <;> first | rfl | exact absurd rfl h

theorem loadsPair_of_writePair {s : State} {i : Instr} {rp : RegPair} {v : Word}
    (hexec : exec i s = .next (s.writePair rp v)) : LoadsPair s i rp v.toNat := by
  refine ⟨_, hexec, by rw [State.readPair_writePair_same], fun x hx => State.readPair_writePair_of_ne s hx v, ?_⟩
  have hrest : SameRest s (s.writePair rp v) := by
    rw [State.writePair_eq]
    exact ⟨rfl, rfl, rfl, rfl, rfl, rfl⟩
  have hmem : (s.writePair rp v).mem = s.mem := by rw [State.writePair_eq]
  cases rp <;> exact ⟨rfl, rfl, rfl, .of_eq hmem hrest, hrest⟩

/-- Settles O8. -/
theorem pairsAreTheirTwoRegisters : Obligations.PairsAreTheirTwoRegisters := by
  intro s w
  refine ⟨wordOf_toNat _ _, wordOf_toNat _ _, wordOf_toNat _ _, ?_, ?_, ?_⟩ <;> rw [← hiByte_eq, ← loByte_eq] <;> rfl

/-- Settles O15. -/
theorem pairIncrementsWrapAndWriteNoFlag : Obligations.PairIncrementsWrapAndWriteNoFlag := by
  intro s rp
  have hinx : LoadsPair s (.inx rp) rp (s.readPair rp + 1).toNat := loadsPair_of_writePair rfl
  have hdcx : LoadsPair s (.dcx rp) rp (s.readPair rp - 1).toNat := loadsPair_of_writePair rfl
  have hup : (s.readPair rp + 1).toNat = ((s.readPair rp).toNat + 1) % 65536 := by bv_omega
  have hdown : (s.readPair rp - 1).toNat = ((s.readPair rp).toNat + 65535) % 65536 := by bv_omega
  exact ⟨hup ▸ hinx, hdown ▸ hdcx⟩

/-- Settles O26. -/
theorem sixteenBitMoves : Obligations.SixteenBitMoves := by
  intro s rp data
  refine ⟨loadsPair_of_writePair rfl, ?_, rfl, rfl⟩
  change Host.Outcome.next ((s.setHL s.regs.de).setDE s.regs.hl) = _
  simp [State.setDE, State.setHL, Regs.de, Regs.hl]

/-! ### Moves (R100 to R108) -/

theorem loadsRegister_of_writeOperand {s : State} {i : Instr} {dst : Operand8} {v : Byte} (hdst : dst ≠ .m)
    (hexec : exec i s = .next (s.writeOperand dst v)) : LoadsRegister s i dst v := by
  have hrest : SameRest s (s.writeOperand dst v) := by
    rw [State.writeOperand_eq]
    exact ⟨rfl, rfl, rfl, rfl, rfl, rfl⟩
  have hsame : (s.writeOperand dst v).readOperand dst = v := by
    rw [State.readOperand_writeOperand hdst hdst, if_pos rfl]
  have hother : OtherRegisters s (s.writeOperand dst v) dst := fun x hx hxm => by
    rw [State.readOperand_writeOperand hdst hxm, if_neg hx]
  refine ⟨_, hexec, hsame, hother, ?_, ?_, ?_, .of_eq (State.writeOperand_mem hdst v) hrest, hrest⟩ <;>
    rw [State.writeOperand_eq]

theorem exec_mov {dst src : Operand8} (h : ¬ (dst = .m ∧ src = .m)) (s : State) :
    exec (.mov dst src) s = .next (s.writeOperand dst (s.readOperand src)) :=
  if_neg h

/-- Settles O22. -/
theorem movesLoadTheDestinationRegister : Obligations.MovesLoadTheDestinationRegister := fun s _ _ _ hdst =>
  ⟨loadsRegister_of_writeOperand hdst (exec_mov (fun h => hdst h.1) s), loadsRegister_of_writeOperand hdst rfl⟩

/-- Settles O23. -/
theorem indirectStoresWriteOneByte : Obligations.IndirectStoresWriteOneByte := fun s _ _ hwf =>
  ⟨fun hsrc => storesByte_of_write8 hwf (exec_mov (fun h => hsrc h.2) s), storesByte_of_write8 hwf rfl,
    storesByte_of_write8 hwf rfl, storesByte_of_write8 hwf rfl⟩

/-- Settles O24. -/
theorem loadsReadTheAddressedBytes : Obligations.LoadsReadTheAddressedBytes := by
  intro s addr
  refine ⟨rfl, rfl, rfl, ?_⟩
  change Host.Outcome.next ((s.dmaTurn .data2).setHL (s.read16 addr)) = _
  simp [State.setHL, State.read16]

/-- Settles O25. -/
theorem directStoresWriteTheAddressedBytes : Obligations.DirectStoresWriteTheAddressedBytes := by
  intro s addr v taken hwf
  have hshld := State.write16_twoStores hwf addr s.regs.hl
  rw [Regs.hl, loByte_wordOf, hiByte_wordOf] at hshld
  have hrest := s.write16_sameRest addr s.regs.hl
  refine ⟨⟨_, rfl, hshld.takesFirst (next_ne addr), hshld.takesLast, hshld.sameElsewhere (by simp) (by simp),
    ?_, ?_, ?_, ?_, hrest⟩, storesByte_of_write8 hwf rfl, fun t h hram => ?_, ?_, ?_, rfl, rfl⟩
  iterate 4 rw [State.write16_eq]
  · cases h
    rw [State.fetch8_write8 hwf, if_pos ⟨rfl, hram⟩]
  · rw [← loByte_eq, ← hiByte_eq]; rfl
  · rw [← loByte_eq, ← hiByte_eq]; rfl

/-! ### INR and DCR (R128, R130) -/

theorem State.readOperand_congr {s t : State} (hregs : t.regs = s.regs) {x : Operand8} (hx : x ≠ .m) :
    t.readOperand x = s.readOperand x := by
  cases x with
  | m => exact absurd rfl hx
  | _ => simp [State.readOperand, hregs]

/-- An instruction that modifies the operand `o` by `f` and sets the flags `fl` does nothing else. -/
theorem stepsOperand_of_modifyOperand {s : State} {i : Instr} {o : Operand8} {f : Byte → Byte} {fl : Flags} {r : Byte}
    {ac : Prop} (hwf : Memory.wf s.mem = true) (hexec : exec i s = .next { s.modifyOperand o f with flags := fl })
    (hr : f (s.readOperand o) = r) (hflags : ResultFlags fl r) (hac : fl.ac = true ↔ ac) (hcy : fl.cy = s.flags.cy) :
    StepsOperand s i o r ac := by
  refine ⟨_, hexec, hflags, hac, hcy, fun ho => ?_, ?_, ?_, ?_, ?_⟩
  · have hread : ∀ x, x ≠ .m → State.readOperand { s.modifyOperand o f with flags := fl } x =
        if x = o then r else s.readOperand x := fun x hx => by
      refine (State.readOperand_congr (s := s.modifyOperand o f) rfl hx).trans ?_
      rw [State.modifyOperand_register ho, State.readOperand_writeOperand ho hx, hr]
    refine ⟨(hread o ho).trans (if_pos rfl), fun x hxo hx => (hread x hx).trans (if_neg hxo), ?_⟩
    rw [State.modifyOperand_register ho]
    exact State.read8_congr (State.writeOperand_mem ho _) (by rw [State.writeOperand_eq])
      (by rw [State.writeOperand_eq])
  · rintro rfl
    subst hr
    have hturn : Memory.wf (s.dmaTurn .data2).mem = true := State.dmaTurn_wf hwf _
    refine ⟨fun hram => ?_, ?_, ?_⟩
    · exact State.write8_takesByte hturn s.regs.hl _ (by rwa [State.dmaTurn_kindAt])
    · exact State.write8_sameMemoryBut hturn s.regs.hl _
    · exact (State.write8_regs _ _ _).trans (s.dmaTurn_regs _)
  · rw [State.modifyOperand_eq]
  · rw [State.modifyOperand_eq]
  · rw [State.modifyOperand_eq]
    exact ⟨rfl, rfl, rfl, rfl, rfl, rfl⟩

/-- Settles O14. -/
theorem incrementAndDecrementKeepCarry : Obligations.IncrementAndDecrementKeepCarry := by
  intro s o hwf
  refine ⟨stepsOperand_of_modifyOperand hwf rfl (by bv_omega) (s.flags.increment_resultFlags _) ?_ rfl,
    stepsOperand_of_modifyOperand hwf rfl (by bv_omega) (s.flags.decrement_resultFlags _) ?_ rfl⟩ <;>
  exact decide_eq_true_iff

/-! ### Calls and restarts -/

/-- A push and a jump: what CALL, RST and every entry do to the state they find. -/
theorem State.callTo_pushes {s : State} (hwf : Memory.wf s.mem = true) (w : Word) :
    Pushed s (s.callTo w) s.pc ∧ (s.callTo w).pc = w ∧ (s.callTo w).regs = s.regs ∧ (s.callTo w).flags = s.flags ∧
      SameRest s (s.callTo w) :=
  ⟨State.push16_pushed hwf s.pc, rfl, s.push16_regs s.pc, s.push16_flags s.pc, s.push16_sameRest s.pc⟩

theorem callsWhen_of_callIf {s : State} {i : Instr} {cond : Cond} {addr : Word} (hwf : Memory.wf s.mem = true)
    (hexec : exec i s = .next (s.callIf cond addr)) : CallsWhen s i (s.flags.holds cond) addr := by
  refine ⟨fun htaken => ⟨s.callTo addr, ?_, State.callTo_pushes hwf addr⟩, fun hnot => ?_⟩
  · rw [hexec, State.callIf, if_pos htaken]
  · rw [hexec, State.callIf, if_neg (ne_true_of_eq_false hnot)]

/-- Settles O28. -/
theorem callsPushTheNextAddressWhenTheConditionHolds : Obligations.CallsPushTheNextAddressWhenTheConditionHolds := by
  intro s addr hwf
  refine ⟨⟨fun _ => ⟨s.callTo addr, rfl, State.callTo_pushes hwf addr⟩, nofun⟩, ?_, ?_, ?_, ?_, ?_, ?_, ?_, ?_⟩
  · exact callsWhen_of_callIf (cond := .nz) hwf rfl
  · exact callsWhen_of_callIf (cond := .z) hwf rfl
  · exact callsWhen_of_callIf (cond := .nc) hwf rfl
  · exact callsWhen_of_callIf (cond := .c) hwf rfl
  · exact callsWhen_of_callIf (cond := .po) hwf rfl
  · exact callsWhen_of_callIf (cond := .pe) hwf rfl
  · exact callsWhen_of_callIf (cond := .p) hwf rfl
  · exact callsWhen_of_callIf (cond := .m) hwf rfl

theorem encode_rst (code : BitVec 3) : encode (.rst code) = [BitVec.ofNat 8 (0xC7 + 8 * code.toNat)] := by
  revert code; decide

theorem restart_target_toNat (code : BitVec 3) : (BitVec.ofNat 16 (8 * code.toNat) : Word).toNat = 8 * code.toNat := by
  revert code; decide

/-- Settles O30. -/
theorem restartPushesAndGoesToEightTimesItsCode : Obligations.RestartPushesAndGoesToEightTimesItsCode := by
  intro s code taken hwf
  obtain ⟨hpushed, hpc, hrest⟩ := State.callTo_pushes hwf (BitVec.ofNat 16 (8 * code.toNat))
  exact ⟨⟨_, rfl, hpushed, hpc ▸ restart_target_toNat code, hrest⟩, encode_rst code, rfl, rfl⟩

/-! ### Jumps and returns -/

theorem jumpsWhen_of_jumpIf {s : State} {i : Instr} {cond : Cond} {addr : Word}
    (hexec : exec i s = .next (s.jumpIf cond addr)) : JumpsWhen s i (s.flags.holds cond) addr := by
  rw [JumpsWhen, hexec, State.jumpIf_eq]

/-- Settles O27. -/
theorem jumpsGoToTheAddressWhenTheConditionHolds : Obligations.JumpsGoToTheAddressWhenTheConditionHolds := by
  intro s addr
  refine ⟨rfl, ?_, ?_, ?_, ?_, ?_, ?_, ?_, ?_⟩
  · exact jumpsWhen_of_jumpIf (cond := .nz) rfl
  · exact jumpsWhen_of_jumpIf (cond := .z) rfl
  · exact jumpsWhen_of_jumpIf (cond := .nc) rfl
  · exact jumpsWhen_of_jumpIf (cond := .c) rfl
  · exact jumpsWhen_of_jumpIf (cond := .po) rfl
  · exact jumpsWhen_of_jumpIf (cond := .pe) rfl
  · exact jumpsWhen_of_jumpIf (cond := .p) rfl
  · exact jumpsWhen_of_jumpIf (cond := .m) rfl

theorem State.top16_eq (s : State) : s.top16 = stackWord s :=
  wordOf_eq _ _

theorem State.returnFrom_stackWord (s : State) :
    s.returnFrom = { s.dmaTurn .data2 with sp := s.sp + 2, pc := stackWord s } := by
  rw [State.returnFrom, State.top16_eq]
  rfl

theorem returnsWhen_of_returnIf {s : State} {i : Instr} {cond : Cond}
    (hexec : exec i s = .next (s.returnIf cond)) : ReturnsWhen s i (s.flags.holds cond) := by
  refine ⟨fun htaken => ?_, fun hnot => ?_⟩
  · rw [hexec, State.returnIf, if_pos htaken, State.returnFrom_stackWord]
  · rw [hexec, State.returnIf, if_neg (ne_true_of_eq_false hnot)]

/-- Settles O29. -/
theorem returnsPopThePcWhenTheConditionHolds : Obligations.ReturnsPopThePcWhenTheConditionHolds := by
  intro s
  have hret : exec .ret s = .next s.returnFrom := rfl
  refine ⟨⟨fun _ => by rw [hret, State.returnFrom_stackWord], nofun⟩, ?_, ?_, ?_, ?_, ?_, ?_, ?_, ?_⟩
  · exact returnsWhen_of_returnIf (cond := .nz) rfl
  · exact returnsWhen_of_returnIf (cond := .z) rfl
  · exact returnsWhen_of_returnIf (cond := .nc) rfl
  · exact returnsWhen_of_returnIf (cond := .c) rfl
  · exact returnsWhen_of_returnIf (cond := .po) rfl
  · exact returnsWhen_of_returnIf (cond := .pe) rfl
  · exact returnsWhen_of_returnIf (cond := .p) rfl
  · exact returnsWhen_of_returnIf (cond := .m) rfl

/-! ### PUSH, POP and XTHL -/

theorem pushesWord_of_push16 {s : State} {i : Instr} {h l : Byte} (hwf : Memory.wf s.mem = true)
    (hexec : exec i s = .next (s.push16 (wordOf h l))) : PushesWord s i (256 * h.toNat + l.toNat) := by
  rw [PushesWord, ← wordOf_eq]
  exact ⟨_, hexec, State.push16_pushed hwf _, s.push16_regs _, s.push16_flags _, s.push16_pc _, s.push16_sameRest _⟩

/-- The bits of the flag byte (R32): the five flags, and the filler bits between them. -/
theorem Flags.toByte_bits (f : Flags) (filler : BitVec 3) :
    (f.toByte filler).getLsbD 7 = f.s ∧ (f.toByte filler).getLsbD 6 = f.z ∧ (f.toByte filler).getLsbD 4 = f.ac ∧
      (f.toByte filler).getLsbD 2 = f.p ∧ (f.toByte filler).getLsbD 0 = f.cy ∧
      (f.toByte filler).getLsbD 5 = filler.getLsbD 2 ∧ (f.toByte filler).getLsbD 3 = filler.getLsbD 1 ∧
      (f.toByte filler).getLsbD 1 = filler.getLsbD 0 := by
  obtain ⟨s, z, ac, p, cy⟩ := f
  revert s z ac p cy filler
  decide

/-- Settles O32. -/
theorem pushStoresThePairOrThePsw : Obligations.PushStoresThePairOrThePsw := by
  intro s hwf
  refine ⟨pushesWord_of_push16 hwf rfl, pushesWord_of_push16 hwf rfl, pushesWord_of_push16 hwf rfl,
    s.flags.toByte (fillerBits s.variant s.tick), pushesWord_of_push16 hwf rfl, ?_⟩
  obtain ⟨hs, hz, hac, hp, hcy, hfive, hthree, hone⟩ := s.flags.toByte_bits (fillerBits s.variant s.tick)
  refine ⟨hs, hz, hac, hp, hcy, fun hv => ?_⟩
  rw [hfive, hthree, hone, hv]
  simp [fillerBits]

/-- Settles O33. -/
theorem popLoadsThePairOrThePsw : Obligations.PopLoadsThePairOrThePsw := by
  intro s
  have hpop : ∀ rp, exec (.pop rp) s = .next (s.drop16.writeStackPair rp (wordOf (stackHigh s) (s.read8 s.sp))) :=
    fun _ => rfl
  refine ⟨?_, ?_, ?_, ?_⟩ <;> rw [hpop] <;>
    simp [State.writeStackPair, State.setBC, State.setDE, State.setHL, State.drop16, Flags.ofByte]

theorem State.exchangeStores_twoStores {s : State} (hwf : Memory.wf s.mem = true) :
    TwoStores ((s.dmaTurn .data2).dmaTurn .data3) s.exchangeStores .data4 (s.sp + 1) s.regs.h s.sp s.regs.l := by
  intro x
  have hturns : Memory.wf ((s.dmaTurn .data2).dmaTurn .data3).mem = true := State.dmaTurn_wf (State.dmaTurn_wf hwf _) _
  unfold State.exchangeStores
  rw [State.read8_write8 (State.dmaTurn_wf (State.write8_wf hturns _ _) _), State.read8_dmaTurn_write8 hturns]
  simp only [State.dmaTurn_kindAt, State.write8_kindAt]
  by_cases h1 : x = s.sp + 1
  · subst h1
    simp [State.dmaAt, State.now]
  · simp only [h1, false_and, if_false]
    by_cases h2 : x = s.sp
    · subst h2
      rfl
    · simp only [h2, false_and, if_false]

/-- Where a turn writes, it leaves its own byte, whatever was there. -/
theorem State.read8_dmaTurn_of_touched {s u : State} (hs : Memory.wf s.mem = true) (hu : Memory.wf u.mem = true)
    (hrest : SameRest s u) {g : BusGap} {x : Word} (hram : s.kindAt x = .ram) (h : DmaTouches s g x) :
    (u.dmaTurn g).read8 x = (s.dmaTurn g).read8 x := by
  obtain ⟨-, -, hplatform, -, henv, -⟩ := hrest
  have hkind : u.kindAt x = .ram := by rwa [State.kindAt, hplatform]
  have hdma : u.dmaAt g = s.dmaAt g := by simp [State.dmaAt, State.now, henv]
  rw [State.read8_dmaTurn hs, State.read8_dmaTurn hu, if_pos hram, if_pos hkind, hdma]
  cases hlast : lastDma (s.dmaAt g) x with
  | none => exact absurd h (not_dmaTouches_iff.mpr hlast)
  | some b => rfl

/-- Settles O35: the stores of XTHL start from the state that the turns before them leave. -/
theorem exchangeWithTopOfStack : Obligations.ExchangeWithTopOfStack := by
  intro s hwf
  have hexec := exec_xthl s
  have hmem := s.exchangeStores_eq
  have hstores := State.exchangeStores_twoStores hwf
  generalize s.exchangeStores = u at hexec hmem hstores
  have hturns : Memory.wf ((s.dmaTurn .data2).dmaTurn .data3).mem = true := State.dmaTurn_wf (State.dmaTurn_wf hwf _) _
  have hrest : SameRest s ((s.dmaTurn .data2).dmaTurn .data3) := by simp [SameRest]
  have henv : DmaTouches ((s.dmaTurn .data2).dmaTurn .data3) .data4 (s.sp + 1) ↔ DmaTouches s .data4 (s.sp + 1) :=
    DmaTouches.congr (by simp)
  refine ⟨_, hexec, ?_, fun hram => ?_, fun hram => ?_, hstores.sameElsewhere (by simp) (by simp), ?_⟩
  · rw [hmem]
    simp [State.top16, State.read16, stackHigh]
  · obtain ⟨hfree, htouched⟩ := hstores.takesFirst (next_ne s.sp).symm (by simpa using hram)
    refine ⟨fun h => hfree (mt henv.mp h), fun h => (htouched (henv.mpr h)).trans ?_⟩
    exact State.read8_dmaTurn_of_touched hwf hturns hrest hram h
  · exact hstores.takesLast (by simpa using hram)
  · rw [hmem]
    exact ⟨rfl, rfl, rfl, rfl, rfl, rfl, rfl, rfl, rfl⟩

end Sys2Proof.Machine
end

/-! ## Proofs: what the stack holds -/

section
/-! The words on the stack, where neither ROM nor the DMA agent interferes: a push adds one, a pop takes it back, and
so a call is undone by its return and a save by its restore (R263, R265). -/

namespace Sys2Proof.Machine

/-- Address `x` is RAM that the agent does not touch between two accesses, so that what is stored there stays. -/
def Keeps (s : State) (x : Word) : Prop := s.kindAt x = .ram ∧ ¬ DmaTouches s .data2 x

/-- The bytes at `x` and `x + 1` are kept and hold the word `v`, low byte first. -/
def HoldsWord (s : State) (x v : Word) : Prop :=
  (Keeps s x ∧ s.read8 x = loByte v) ∧ Keeps s (x + 1) ∧ s.read8 (x + 1) = hiByte v

/-- The words on the stack, the last pushed first. -/
def StackHolds (s : State) (vs : List Word) : Prop :=
  ∀ k v, vs[k]? = some v → HoldsWord s (s.sp + BitVec.ofNat 16 (2 * k)) v

theorem Keeps.congr {s t : State} (h : SameRest s t) {x : Word} : Keeps t x ↔ Keeps s x := by
  obtain ⟨-, -, hplatform, -, henv, -⟩ := h
  rw [Keeps, Keeps, DmaTouches.congr henv, State.kindAt, State.kindAt, hplatform]

/-! ### One push and one pop -/

section
variable {s : State} (hwf : Memory.wf s.mem = true)
include hwf

theorem Keeps.read8_push16 {x : Word} (h : Keeps s x) (v : Word) (h1 : x ≠ s.sp - 1) (h2 : x ≠ s.sp - 2) :
    (s.push16 v).read8 x = s.read8 x := by
  rw [(State.push16_twoStores hwf v).sameElsewhere (stored := [s.sp - 1, s.sp - 2]) (by simp) (by simp) x
    (by simpa using ⟨h1, h2⟩)]
  exact State.read8_dmaTurn_of_untouched hwf h.2

theorem HoldsWord.push {x w : Word} (h : HoldsWord s x w) (v : Word) (h1 : x ≠ s.sp - 1) (h2 : x ≠ s.sp - 2)
    (h3 : x + 1 ≠ s.sp - 2) : HoldsWord (s.push16 v) x w := by
  obtain ⟨⟨hlow, hlow'⟩, hhigh, hhigh'⟩ := h
  have h4 : x + 1 ≠ s.sp - 1 := by bv_omega
  rw [HoldsWord, Keeps.congr (s.push16_sameRest v), Keeps.congr (s.push16_sameRest v), hlow.read8_push16 hwf v h1 h2,
    hhigh.read8_push16 hwf v h4 h3]
  exact ⟨⟨hlow, hlow'⟩, hhigh, hhigh'⟩

theorem holdsWord_push16 (v : Word) (h1 : Keeps s (s.sp - 1)) (h2 : Keeps s (s.sp - 2)) :
    HoldsWord (s.push16 v) (s.sp - 2) v := by
  have hstores := State.push16_twoStores hwf v
  have hnext : s.sp - 2 + 1 = s.sp - 1 := by bv_omega
  rw [HoldsWord, hnext, Keeps.congr (s.push16_sameRest v), Keeps.congr (s.push16_sameRest v)]
  exact ⟨⟨h2, hstores.takesLast h2.1⟩, h1, (hstores.takesFirst (below_ne _) h1.1).1 h1.2⟩

/-- A push adds its word to those on the stack; few enough words do not come round to the new one. -/
theorem StackHolds.push {vs : List Word} (h : StackHolds s vs) (hlen : vs.length < 32767) (v : Word)
    (h1 : Keeps s (s.sp - 1)) (h2 : Keeps s (s.sp - 2)) : StackHolds (s.push16 v) (v :: vs) := by
  intro k w hk
  rw [State.push16_sp]
  cases k with
  | zero =>
    obtain rfl : v = w := by simpa using hk
    simpa using holdsWord_push16 hwf v h1 h2
  | succ k =>
    have hk' : vs[k]? = some w := by simpa using hk
    have hbound : k < vs.length := (List.getElem?_eq_some_iff.mp hk').1
    have haddr : s.sp - 2 + BitVec.ofNat 16 (2 * (k + 1)) = s.sp + BitVec.ofNat 16 (2 * k) := by bv_omega
    rw [haddr]
    exact (h k w hk').push hwf v (by bv_omega) (by bv_omega) (by bv_omega)

theorem HoldsWord.drop {x w : Word} (h : HoldsWord s x w) : HoldsWord s.drop16 x w := by
  have hrest : SameRest s s.drop16 := by simp [SameRest]
  have hread : ∀ y, Keeps s y → s.drop16.read8 y = s.read8 y := fun y hy =>
    State.read8_dmaTurn_of_untouched hwf hy.2
  obtain ⟨⟨hlow, hlow'⟩, hhigh, hhigh'⟩ := h
  rw [HoldsWord, Keeps.congr hrest, Keeps.congr hrest, hread _ hlow, hread _ hhigh]
  exact ⟨⟨hlow, hlow'⟩, hhigh, hhigh'⟩

/-- A pop answers the word on top and leaves the others. -/
theorem StackHolds.pop {v : Word} {vs : List Word} (h : StackHolds s (v :: vs)) :
    s.top16 = v ∧ StackHolds s.drop16 vs := by
  constructor
  · have htop : HoldsWord s s.sp v := by simpa using h 0 v rfl
    obtain ⟨⟨-, hlow⟩, hkeeps, hhigh⟩ := htop
    exact State.read16_of_bytes hwf hlow hhigh hkeeps.2
  · intro k w hk
    have haddr : s.drop16.sp + BitVec.ofNat 16 (2 * k) = s.sp + BitVec.ofNat 16 (2 * (k + 1)) := by
      rw [State.drop16_sp]
      bv_omega
    rw [haddr]
    exact (h (k + 1) w (by simpa using hk)).drop hwf

end

/-! ### A call and its return -/

/-- A turn leaves alone a byte that reads as an earlier turn with the same writes left it. -/
theorem State.read8_dmaTurn_again {s u : State} (hs : Memory.wf s.mem = true) (hu : Memory.wf u.mem = true)
    (hrest : SameRest s u) {g : BusGap} {x : Word} (h : u.read8 x = (s.dmaTurn g).read8 x) :
    (u.dmaTurn g).read8 x = (s.dmaTurn g).read8 x := by
  obtain ⟨-, -, hplatform, -, henv, -⟩ := hrest
  have hkind : u.kindAt x = s.kindAt x := by rw [State.kindAt, State.kindAt, hplatform]
  have hdma : u.dmaAt g = s.dmaAt g := by simp [State.dmaAt, State.now, henv]
  rw [State.read8_dmaTurn hu, h, hkind, hdma, State.read8_dmaTurn hs]
  by_cases hram : s.kindAt x = .ram
  · simp only [hram, if_true]
    cases lastDma (s.dmaAt g) x <;> rfl
  · simp only [hram, if_false]

/-- Settles O31: the call leaves the next address on the stack, and the return takes it. -/
theorem returnUndoesCall : Obligations.ReturnUndoesCall := by
  intro s addr hwf hroom hfree1 hfree2
  have hholds : StackHolds (s.push16 s.pc) [s.pc] :=
    StackHolds.push hwf (vs := []) nofun (by simp) s.pc ⟨hroom.1, hfree1⟩ ⟨hroom.2, hfree2⟩
  have hcall : StackHolds (s.callTo addr) [s.pc] := hholds
  obtain ⟨⟨hsp, -, -, hsame⟩, -, hregs, hflags, hrest⟩ := State.callTo_pushes hwf addr
  have hwf' := State.callTo_wf hwf addr
  have hexec : execAll [.call addr, .ret] s = .next (s.callTo addr).returnFrom := rfl
  generalize s.callTo addr = u at *
  rw [State.returnFrom_stackWord] at hexec
  refine ⟨_, hexec, u.top16_eq.symm.trans (hcall.pop hwf').1, ?_, (u.dmaTurn_regs _).trans hregs,
    (u.dmaTurn_flags _).trans hflags, fun x hx => State.read8_dmaTurn_again hwf hwf' hrest (hsame x hx),
    hrest.trans (u.dmaTurn_sameRest .data2)⟩
  rw [hsp]
  bv_omega

/-! ### Saving and restoring -/

theorem Flags.ofByte_toByte (f : Flags) (filler : BitVec 3) : Flags.ofByte (f.toByte filler) = f := by
  obtain ⟨hs, hz, hac, hp, hcy, -⟩ := f.toByte_bits filler
  rw [Flags.ofByte, hs, hz, hac, hp, hcy]

/-- A POP where the stack holds words takes the top one and leaves the others. -/
theorem StackHolds.exec_pop {s : State} {v : Word} {vs : List Word} (h : StackHolds s (v :: vs))
    (hwf : Memory.wf s.mem = true) (rp : StackPair) :
    exec (.pop rp) s = .next (s.drop16.writeStackPair rp v) ∧ StackHolds (s.drop16.writeStackPair rp v) vs ∧
      Memory.wf (s.drop16.writeStackPair rp v).mem = true := by
  obtain ⟨htop, hrest⟩ := h.pop hwf
  have hexec : exec (.pop rp) s = .next (s.drop16.writeStackPair rp s.top16) := rfl
  have hmem : Memory.wf s.drop16.mem = true := State.dmaTurn_wf hwf _
  rw [htop] at hexec
  cases rp <;> exact ⟨hexec, hrest, hmem⟩

theorem exec_push (rp : StackPair) (s : State) : exec (.push rp) s = .next (s.push16 (s.readStackPair rp)) := rfl

theorem State.readStackPair_push16 (s : State) (v : Word) (rp : StackPair) :
    (s.push16 v).readStackPair rp = s.readStackPair rp := by
  cases rp <;> simp [State.readStackPair, State.variant]

/-- Canonical memory, the words `vs` on the stack, and room below for `n` words more. -/
def StackState (s : State) (vs : List Word) (n : Nat) : Prop :=
  Memory.wf s.mem = true ∧ StackHolds s vs ∧ ∀ k, 1 ≤ k → k ≤ 2 * n → Keeps s (s.sp - BitVec.ofNat 16 k)

theorem StackState.push {s : State} {vs : List Word} {n : Nat} (h : StackState s vs (n + 1)) (hlen : vs.length < 32767)
    (v : Word) : StackState (s.push16 v) (v :: vs) n := by
  obtain ⟨hwf, hholds, hroom⟩ := h
  refine ⟨State.push16_wf hwf v, ?_, fun k h1 hk => ?_⟩
  · exact hholds.push hwf hlen v (hroom 1 (by omega) (by omega)) (hroom 2 (by omega) (by omega))
  · have haddr : (s.push16 v).sp - BitVec.ofNat 16 k = s.sp - BitVec.ofNat 16 (k + 2) := by
      rw [State.push16_sp]
      bv_omega
    rw [Keeps.congr (s.push16_sameRest v), haddr]
    exact hroom (k + 2) (by omega) (by omega)

/-- The four pushes of the save sequence leave the PSW and the pairs on the stack. -/
theorem save_stackState {s : State} (h : StackState s [] 4) :
    ∃ u, execAll [.push .psw, .push .b, .push .d, .push .h] s = .next u ∧
      StackState u [s.readStackPair .h, s.readStackPair .d, s.readStackPair .b, s.readStackPair .psw] 0 ∧
      u.sp = s.sp - 8 ∧ u.pc = s.pc ∧ SameRest s u := by
  have hpsw := h.push (by simp) (s.readStackPair .psw)
  have hb := hpsw.push (by simp) (s.readStackPair .b)
  have hd := hb.push (by simp) (s.readStackPair .d)
  refine ⟨_, ?_, hd.push (by simp) (s.readStackPair .h), ?_, by simp, by simp [SameRest]⟩
  · simp only [execAll, exec_push, State.readStackPair_push16]
  · simp only [State.push16_sp]
    bv_omega

/-- The four pops in the opposite order take them back, into whatever registers and flags. -/
theorem restore_exec {u : State} {h d b psw : Word} {n : Nat} (hu : StackState u [h, d, b, psw] n) :
    ∃ t, execAll [.pop .h, .pop .d, .pop .b, .pop .psw] u = .next t ∧
      t.regs = { a := hiByte psw, b := hiByte b, c := loByte b, d := hiByte d, e := loByte d, h := hiByte h
                 l := loByte h } ∧
      t.flags = Flags.ofByte (loByte psw) ∧ t.sp = u.sp + 8 ∧ t.pc = u.pc ∧ SameRest u t := by
  obtain ⟨hwf, hholds, -⟩ := hu
  obtain ⟨hpop1, hholds1, hwf1⟩ := hholds.exec_pop hwf .h
  obtain ⟨hpop2, hholds2, hwf2⟩ := hholds1.exec_pop hwf1 .d
  obtain ⟨hpop3, hholds3, hwf3⟩ := hholds2.exec_pop hwf2 .b
  obtain ⟨hpop4, -, -⟩ := hholds3.exec_pop hwf3 .psw
  refine ⟨_, by simp only [execAll, hpop1, hpop2, hpop3, hpop4]; rfl, ?_, ?_, ?_, ?_, ?_⟩
  · simp [State.writeStackPair]
  · simp [State.writeStackPair]
  · simp only [State.writeStackPair, State.setHL_sp, State.setDE_sp, State.setBC_sp, State.drop16_sp]
    bv_omega
  · simp [State.writeStackPair]
  · simp [State.writeStackPair, SameRest]

/-- Settles O34. -/
theorem saveAndRestoreSequenceRestoresEverything : Obligations.SaveAndRestoreSequenceRestoresEverything := by
  intro s r f hwf hkeeps
  obtain ⟨u, hsave, hu, hsp, hpc, hrest⟩ := save_stackState (s := s) ⟨hwf, nofun, hkeeps⟩
  obtain ⟨t, hrestore, hregs, hflags, hsp', hpc', hrest'⟩ :=
    restore_exec (u := { u with regs := r, flags := f }) (n := 0) hu
  refine ⟨u, t, hsave, hrestore, ?_, ?_, ?_, hpc'.trans hpc, hrest.trans hrest'⟩
  · rw [hregs]
    simp [State.readStackPair, Regs.hl, Regs.de, Regs.bc]
  · rw [hflags]
    simp [State.readStackPair, Flags.ofByte_toByte]
  · rw [hsp', hsp]
    bv_omega

end Sys2Proof.Machine
end

/-! ## Proofs: taking an interrupt -/

section
/-! What an entry leaves (R257 to R259): the push starts from the state of the boundary with control bits and the
flip-flop changed, which no access to memory reads. -/

namespace Sys2Proof.Machine

/-! ### The restart entries -/

/-- A push speaks of the memory, the bus and SP of the state it starts from, not of the control bits. -/
theorem Pushed.of_control {s t : State} {c : Control} {x : Ext85} {v : Word} (hwf : Memory.wf s.mem = true)
    (h : Pushed { s with ctl := c, ext := x } t v) : Pushed s t v := by
  obtain ⟨hsp, hhigh, hlow, hsame⟩ := h
  have hturn : ∀ y, (State.dmaTurn { s with ctl := c, ext := x } .data2).read8 y = (s.dmaTurn .data2).read8 y :=
    fun y => (State.read8_dmaTurn (s := { s with ctl := c, ext := x }) hwf _ y).trans (State.read8_dmaTurn hwf _ y).symm
  refine ⟨hsp, fun hram => ?_, hlow, fun y hy => (hsame y hy).trans (hturn y)⟩
  obtain ⟨hfree, htouched⟩ := hhigh hram
  exact ⟨hfree, fun h => (htouched h).trans (hturn _)⟩

theorem State.clearRequest_eq (s : State) (src : IntSource) :
    s.clearRequest src = { s with ext := { s.ext with r75 := if src = .rst75 then false else s.ext.r75 } } := by
  unfold State.clearRequest
  split <;> simp [*]

/-- The entry at `target` for the source `src` (R258, R259). -/
theorem State.enterRestart_entersAt {s : State} (hwf : Memory.wf s.mem = true) (src : IntSource) (target : Word) :
    EntersAt s ((s.clearRequest src).enterRestart target) target ∧
      ((s.clearRequest src).enterRestart target).ext =
        { s.ext with r75 := if src = .rst75 then false else s.ext.r75 } := by
  have hwf' : Memory.wf (s.clearRequest src).recognise.mem = true := State.clearRequest_wf hwf src
  obtain ⟨hpushed, hpc, hregs, hflags, -, hext, hplatform, hio, henv, htick⟩ := State.callTo_pushes hwf' target
  rw [State.clearRequest_eq] at *
  exact ⟨⟨State.enterRestart_ctl _ _, hpushed.of_control hwf, hpc, hregs, hflags, hplatform, hio, henv, htick⟩, hext⟩

/-- A step that takes a source with a restart address enters there. -/
theorem step_of_restart {s : State} {src : IntSource} (hsrc : src ≠ .int) (htaken : s.taken = some src) :
    step s = .next ((s.boundary.clearRequest src).enterRestart (restartAddress src)).endStep := by
  rw [step_of_taken htaken]
  cases src with
  | int => exact absurd rfl hsrc
  | _ => rfl

/-- Settles O51. -/
theorem restartInputsEnterAtTheirAddresses : Obligations.RestartInputsEnterAtTheirAddresses := by
  intro s src target hwf htaken haddress
  obtain ⟨hsrc, rfl⟩ : src ≠ .int ∧ target = restartAddress src := by
    rcases haddress with ⟨rfl, rfl⟩ | ⟨rfl, rfl⟩ | ⟨rfl, rfl⟩ <;> exact ⟨nofun, rfl⟩
  exact ⟨_, step_of_restart hsrc htaken, State.enterRestart_entersAt (State.boundary_wf hwf) src _⟩

/-- Settles O52. -/
theorem trapEntersWhateverTheEnablesAre : Obligations.TrapEntersWhateverTheEnablesAre := by
  intro s hwf htaken
  exact ⟨_, step_of_restart (src := .trap) (by decide) htaken,
    State.enterRestart_entersAt (State.boundary_wf hwf) .trap _⟩

/-! ### The supplied instruction (R257) -/

/-- One byte decodes with nothing left, if it decodes at all. -/
theorem decodeSupplied_eq_some_iff {v : Variant} {b : Byte} {i : Instr} :
    decodeSupplied v b = some i ↔ decode v [b] = .ok (i, []) := by
  unfold decodeSupplied
  cases h : decode v [b] with
  | error r => simp
  | ok p =>
    obtain ⟨j, rest⟩ := p
    obtain ⟨b1, tl, hcons, -, -, rfl⟩ := decode_ok_iff.mp h
    obtain ⟨rfl, rfl⟩ : b = b1 ∧ [] = tl := by simpa using hcons
    simp

theorem step_of_supplied {s : State} {i : Instr} {u : State} (htaken : s.taken = some .int)
    (hdecode : decode s.variant [s.now.intByte] = .ok (i, [])) (hexec : exec i s.boundary.recognise = .next u) :
    step s = .next (u.complete s.ctl.eiPending i).endStep := by
  have hsupplied : decodeSupplied s.boundary.variant s.boundary.now.intByte = some i := by
    rw [State.boundary_variant, State.boundary_now]
    exact decodeSupplied_eq_some_iff.mpr hdecode
  have henter : s.boundary.enter .int = .next (u.complete s.ctl.eiPending i) := by
    rw [State.enter, State.enterSupplied, hsupplied]
    exact (runInstr_next hexec).trans (by rw [State.recognise_ctl, State.boundary_ctl])
  rw [step_of_taken htaken, henter]
  rfl

/-- An accepted RST enters at eight times its code: the recognition clears INTE and the halt, the completion rule the
rest. -/
theorem supplied_rst_entersAt {s : State} (hwf : Memory.wf s.mem = true) (code : BitVec 3) :
    EntersAt s ((s.recognise.callTo (BitVec.ofNat 16 (8 * code.toNat))).complete false (.rst code))
      (BitVec.ofNat 16 (8 * code.toNat)) := by
  have hwf' : Memory.wf s.recognise.mem = true := hwf
  obtain ⟨hpushed, hpc, hregs, hflags, hctl, -, hplatform, hio, henv, htick⟩ :=
    State.callTo_pushes hwf' (BitVec.ofNat 16 (8 * code.toNat))
  refine ⟨?_, hpushed.of_control hwf, hpc, hregs, hflags, hplatform, hio, henv, htick⟩
  rw [State.complete_ctl, hctl]
  simp

/-- Settles O53. -/
theorem acceptedIntRunsTheSuppliedInstruction : Obligations.AcceptedIntRunsTheSuppliedInstruction := by
  intro s htaken
  refine ⟨fun i u => step_of_supplied htaken, fun code hbyte hwf hpending => ?_, fun hnone => ?_⟩
  · have hencoded : [s.now.intByte] = encode (.rst code) ++ [] := by
      rw [encode_rst, ← hbyte]
      simp
    have hdecode : decode s.variant [s.now.intByte] = .ok (.rst code, []) := by
      rw [hencoded]
      exact decode_encode rfl []
    refine ⟨_, step_of_supplied htaken hdecode rfl, ?_⟩
    rw [hpending]
    exact supplied_rst_entersAt (State.boundary_wf hwf) code
  · have hsupplied : decodeSupplied s.boundary.variant s.boundary.now.intByte = none := by
      rw [State.boundary_variant, State.boundary_now]
      exact Option.eq_none_iff_forall_ne_some.mpr fun i hi => hnone i (decodeSupplied_eq_some_iff.mp hi)
    rw [step_of_taken htaken, State.enter, State.enterSupplied, hsupplied, State.boundary_now]
    rfl

end Sys2Proof.Machine
end

/-! ## Proofs: ports and control -/

section
/-! The instructions whose whole next state is one plain update, and the bytes of RIM and SIM (R39, R40). -/

namespace Sys2Proof.Machine

/-- Settles O36. -/
theorem inputAndOutputMakeOnePortAccess : Obligations.InputAndOutputMakeOnePortAccess := by
  intro s port
  have hin : exec (.inPort port) s =
      .next ((s.setA (s.portByte port)).record (.portRead port (s.portByte port))) := rfl
  refine ⟨fun x hx => ?_, fun hx => ?_, rfl⟩
  · have hbyte : s.portByte port = x := by rw [State.portByte, hx]; rfl
    rw [hin, hbyte]
    rfl
  · have hbyte : s.portByte port = Config.portIn s.io port := by rw [State.portByte, hx]; rfl
    rw [hin, hbyte]
    rfl

/-- Settles O37: each of the four is one plain update. -/
theorem machineControlInstructions : Obligations.MachineControlInstructions :=
  fun _ => ⟨rfl, rfl, rfl, rfl⟩

/-- Settles O21. -/
theorem complementAndCarryInstructions : Obligations.ComplementAndCarryInstructions := by
  intro s
  have hcma : exec .cma s = .next (s.setA (~~~s.regs.a)) := rfl
  have hcmc : exec .cmc s = .next { s with flags.cy := !s.flags.cy } := rfl
  have hnot : ~~~s.regs.a = BitVec.ofNat 8 (255 - s.regs.a.toNat) := by
    refine BitVec.eq_of_toNat_eq ?_
    rw [BitVec.toNat_not, BitVec.toNat_ofNat]
    omega
  refine ⟨by rw [hcma, hnot]; rfl, ?_, rfl⟩
  rw [hcmc]
  cases s.flags.cy <;> rfl

/-! ### RIM and SIM -/

/-- Eight bits put together, the first the most significant, read back. -/
theorem getLsbD_of_bits (b7 b6 b5 b4 b3 b2 b1 b0 : Bool) :
    let r : Byte := BitVec.ofBool b7 ++ BitVec.ofBool b6 ++ BitVec.ofBool b5 ++ BitVec.ofBool b4 ++ BitVec.ofBool b3 ++
      BitVec.ofBool b2 ++ BitVec.ofBool b1 ++ BitVec.ofBool b0
    r.getLsbD 7 = b7 ∧ r.getLsbD 6 = b6 ∧ r.getLsbD 5 = b5 ∧ r.getLsbD 4 = b4 ∧ r.getLsbD 3 = b3 ∧ r.getLsbD 2 = b2 ∧
      r.getLsbD 1 = b1 ∧ r.getLsbD 0 = b0 := by
  revert b7 b6 b5 b4 b3 b2 b1 b0
  decide

theorem exec_rim {s : State} (h : s.variant = .i8085) : exec .rim s = .next (s.setA s.rimByte) := by
  simp [exec, execRim, h]

theorem exec_sim {s : State} (h : s.variant = .i8085) :
    exec .sim s = .next { s with ext := s.ext.setBy s.regs.a } := by
  simp [exec, execSim, h]

/-- Settles O38. -/
theorem readInterruptMask : Obligations.ReadInterruptMask := by
  intro s
  refine ⟨fun hv => ?_, exec_rim_8080⟩
  obtain ⟨hsid, hr75, hrst65, hrst55, hinte, hm75, hm65, hm55⟩ :=
    getLsbD_of_bits s.sidBit s.ext.r75 s.now.rst65 s.now.rst55 s.ctl.inte s.ext.m75 s.ext.m65 s.ext.m55
  have hrest : SameRest s (s.setA s.rimByte) := ⟨rfl, rfl, rfl, rfl, rfl, rfl⟩
  refine ⟨_, exec_rim hv, fun x hx => hsid.trans ?_, hr75, hrst65, hrst55, hinte, hm75, hm65, hm55, rfl, rfl, rfl, rfl,
    .of_eq rfl hrest, hrest⟩
  rw [State.sidBit, hx]
  rfl

/-- Settles O39: each part of SIM is behind its own bit of A. -/
theorem setInterruptMask : Obligations.SetInterruptMask := by
  intro s
  refine ⟨fun hv => ⟨_, exec_sim hv, fun hmask => ?_, fun hmask => ?_, fun hreset => if_pos hreset,
    fun hkeep => if_neg (ne_true_of_eq_false hkeep), fun hserial => if_pos hserial,
    fun hkeep => if_neg (ne_true_of_eq_false hkeep)⟩, exec_sim_8080⟩
  · exact ⟨if_pos hmask, if_pos hmask, if_pos hmask⟩
  · have hmask' := ne_true_of_eq_false hmask
    exact ⟨if_neg hmask', if_neg hmask', if_neg hmask'⟩

end Sys2Proof.Machine
end

/-! ## Proofs: arithmetic -/

section
/-! The sums and differences of R120, R121 and R127 as numbers, with their carries, and the decimal adjustment of
R126. -/

namespace Sys2Proof.Machine

/-! ### Sums -/

theorem add8_toNat (a v : Byte) (c : Bool) (f : Flags) :
    (add8 a v c f).1.toNat = (a.toNat + v.toNat + c.toNat) % 256 :=
  BitVec.toNat_ofNat _ _

theorem add8_carries (a v : Byte) (c : Bool) (f : Flags) : SumCarries (add8 a v c f).2 a v c :=
  ⟨decide_eq_true_iff, decide_eq_true_iff⟩

theorem addsToA_of_addToA {s : State} {i : Instr} {v : Byte} {c : Bool} (hexec : exec i s = .next (s.addToA v c)) :
    AddsToA s i v c :=
  ⟨_, hexec, add8_toNat _ _ _ s.flags, add8_resultFlags .., add8_carries .., s.setAFlags_onlyAAndFlags _⟩

/-- Settles O9. -/
theorem additionsGiveTheSumAndItsFiveFlags : Obligations.AdditionsGiveTheSumAndItsFiveFlags := fun _ _ _ =>
  ⟨addsToA_of_addToA rfl, addsToA_of_addToA rfl, addsToA_of_addToA rfl, addsToA_of_addToA rfl⟩

/-- Settles O16. -/
theorem doubleAddWritesCarryOnly : Obligations.DoubleAddWritesCarryOnly := by
  intro s rp
  have hsum : ((s.setHL (add16 s.regs.hl (s.readPair rp)).1).regs.hl).toNat =
      (s.regs.hl.toNat + (s.readPair rp).toNat) % 65536 := by
    rw [State.setHL_regs, Regs.hl, wordOf_hiByte_loByte]
    exact BitVec.toNat_ofNat _ _
  have hrest : ∀ f, SameRest s { s.setHL (add16 s.regs.hl (s.readPair rp)).1 with flags := f } :=
    fun _ => ⟨rfl, rfl, rfl, rfl, rfl, rfl⟩
  exact ⟨_, rfl, hsum, decide_eq_true_iff, rfl, rfl, rfl, rfl, .of_eq rfl (hrest _), hrest _⟩

/-! ### Differences -/

/-- The three-term addition of R121 as a difference. -/
theorem sub8_toNat (a v : Byte) (b : Bool) (f : Flags) :
    ((sub8 a v b f).1.toNat : Int) = ((a.toNat : Int) - (v.toNat : Int) - (b.toNat : Int)) % 256 := by
  have ha := a.isLt
  have hv := v.isLt
  have hb := b.toNat_le
  have hnot : (~~~v).toNat = 255 - v.toNat := BitVec.toNat_not
  have ht : (sub8 a v b f).1.toNat = (a.toNat + (~~~v).toNat + (1 - b.toNat)) % 256 := BitVec.toNat_ofNat _ _
  omega

/-- Its carries complement the borrows. -/
theorem sub8_borrows (a v : Byte) (b : Bool) (f : Flags) : DifferenceBorrows (sub8 a v b f).2 a v b := by
  have hv := v.isLt
  have hb := b.toNat_le
  have hnot : (~~~v).toNat = 255 - v.toNat := BitVec.toNat_not
  have hcy : (sub8 a v b f).2.cy = true ↔ a.toNat + (~~~v).toNat + (1 - b.toNat) < 256 := decide_eq_true_iff
  have hac : (sub8 a v b f).2.ac = true ↔ 16 ≤ a.toNat % 16 + (~~~v).toNat % 16 + (1 - b.toNat) := decide_eq_true_iff
  rw [hnot] at hcy hac
  exact ⟨hcy.trans (by omega), hac.trans (by omega)⟩

theorem subtractsFromA_of_subFromA {s : State} {i : Instr} {v : Byte} {b : Bool}
    (hexec : exec i s = .next (s.subFromA v b)) : SubtractsFromA s i v b :=
  ⟨_, hexec, sub8_toNat _ _ _ s.flags, sub8_resultFlags .., sub8_borrows .., s.setAFlags_onlyAAndFlags _⟩

/-- Settles O10. -/
theorem subtractionsGiveTheDifferenceAndItsFiveFlags : Obligations.SubtractionsGiveTheDifferenceAndItsFiveFlags :=
  fun _ _ _ => ⟨subtractsFromA_of_subFromA rfl, subtractsFromA_of_subFromA rfl, subtractsFromA_of_subFromA rfl,
    subtractsFromA_of_subFromA rfl⟩

/-- Z of a difference says that the operands are equal. -/
theorem sub8_zero_iff (a v : Byte) (f : Flags) : (sub8 a v false f).2.z = true ↔ a = v := by
  have ha := a.isLt
  have hv := v.isLt
  have hdiff := sub8_toNat a v false f
  rw [Bool.toNat_false] at hdiff
  have hz : (sub8 a v false f).2.z = true ↔ (sub8 a v false f).1 = 0 := decide_eq_true_iff
  have hzero : (0 : Byte).toNat = 0 := rfl
  rw [hz, BitVec.toNat_eq, BitVec.toNat_eq, hzero]
  omega

theorem comparesWithA_of_compareWithA {s : State} {i : Instr} {v : Byte} (hexec : exec i s = .next (s.compareWithA v)) :
    ComparesWithA s i v := by
  have hdiff := sub8_toNat s.regs.a v false s.flags
  have hrest : SameRest s (s.compareWithA v) := ⟨rfl, rfl, rfl, rfl, rfl, rfl⟩
  refine ⟨_, hexec, sub8_zero_iff .., ⟨_, ?_, sub8_resultFlags s.regs.a v false s.flags⟩, sub8_borrows ..,
    rfl, rfl, rfl, .of_eq rfl hrest, hrest⟩
  rw [hdiff]
  simp

/-- Settles O11. -/
theorem comparesWriteTheFlagsOnly : Obligations.ComparesWriteTheFlagsOnly := fun _ _ _ =>
  ⟨comparesWithA_of_compareWithA rfl, comparesWithA_of_compareWithA rfl⟩

/-! ### The decimal adjustment (R126) -/

/-- The first step of DAA: six more where the low digit or AC asks for it. -/
def adjustedLow (a : Byte) (f : Flags) : Nat :=
  if decide (9 < lowDigit a) || f.ac then a.toNat + 6 else a.toNat

/-- The second step: sixty hexadecimal more where what is then above the low digit, or CY, asks for it. -/
def adjusted (a : Byte) (f : Flags) : Nat :=
  if 9 < adjustedLow a f / 16 ∨ f.cy = true then adjustedLow a f + 0x60 else adjustedLow a f

theorem adjustedLow_of {a : Byte} {f : Flags} (h : 9 < a.toNat % 16 ∨ f.ac = true) : adjustedLow a f = a.toNat + 6 :=
  if_pos (by simpa using h)

theorem adjustedLow_of_not {a : Byte} {f : Flags} (h : ¬ (9 < a.toNat % 16 ∨ f.ac = true)) :
    adjustedLow a f = a.toNat :=
  if_neg (by simpa using h)

theorem daa8_toNat (a : Byte) (f : Flags) : (daa8 a f).1.toNat = adjusted a f % 256 :=
  BitVec.toNat_ofNat _ _

theorem daa8_cy (a : Byte) (f : Flags) : (daa8 a f).2.cy = true ↔ 256 ≤ adjusted a f ∨ f.cy = true := by
  have hcy : (daa8 a f).2.cy = (decide (256 ≤ adjusted a f) || f.cy) := rfl
  simp [hcy]

theorem daa8_ac (a : Byte) (f : Flags) : (daa8 a f).2.ac = true ↔ 9 < a.toNat % 16 := by
  have hac : (daa8 a f).2.ac = true ↔ (9 < a.toNat % 16 ∨ f.ac = true) ∧ 16 ≤ a.toNat % 16 + 6 := by
    simp [daa8, lowDigit]
  rw [hac]
  omega

/-- Settles O17. -/
theorem decimalAdjustFollowsTheTwoSteps : Obligations.DecimalAdjustFollowsTheTwoSteps := by
  intro s
  exact ⟨_, rfl, ⟨adjustedLow s.regs.a s.flags, adjusted s.regs.a s.flags, adjustedLow_of, adjustedLow_of_not,
    fun h => if_pos h, fun h => if_neg h, daa8_toNat .., daa8_cy ..⟩, daa8_ac .., daa8_resultFlags ..,
    s.setAFlags_onlyAAndFlags _⟩

/-- The two steps on numbers, for two decimal digits each in `a` and `v` and a carry-in: `t` is the binary sum, `t1` and
`t2` are its low eight bits after each step, and `k` is the carry in the end. -/
theorem decimal_of_adjusted {a v c t t1 t2 k : Nat} (ha : a / 16 ≤ 9) (ha' : a % 16 ≤ 9) (hv : v / 16 ≤ 9)
    (hv' : v % 16 ≤ 9) (hc : c ≤ 1) (ht : t = a + v + c)
    (hlow : 9 < a % 16 + v % 16 + c → t1 = t % 256 + 6) (hlow' : ¬ 9 < a % 16 + v % 16 + c → t1 = t % 256)
    (hhigh : 9 < t1 / 16 ∨ 256 ≤ t → t2 = t1 + 0x60) (hhigh' : ¬ (9 < t1 / 16 ∨ 256 ≤ t) → t2 = t1)
    (hcarry : 256 ≤ t2 ∨ 256 ≤ t → k = 1) (hcarry' : ¬ (256 ≤ t2 ∨ 256 ≤ t) → k = 0) :
    (t2 % 256 / 16 ≤ 9 ∧ t2 % 256 % 16 ≤ 9) ∧
      10 * (t2 % 256 / 16) + t2 % 256 % 16 + 100 * k = 10 * (a / 16) + a % 16 + (10 * (v / 16) + v % 16) + c := by
  omega

/-- The decimal adjustment after a binary sum of decimal operands: AC and CY of the sum, with its digits, say which
decimal digits went over, and each step corrects one of them. -/
theorem daa8_add8_decimal {a v : Byte} (c : Bool) (f : Flags) (ha : IsDecimal a) (hv : IsDecimal v) :
    IsDecimal (daa8 (add8 a v c f).1 (add8 a v c f).2).1 ∧
      decimalValue (daa8 (add8 a v c f).1 (add8 a v c f).2).1 +
          100 * (daa8 (add8 a v c f).1 (add8 a v c f).2).2.cy.toNat =
        decimalValue a + decimalValue v + c.toNat := by
  have hr := add8_toNat a v c f
  obtain ⟨hcy, hac⟩ := add8_carries a v c f
  generalize add8 a v c f = r at hr hcy hac ⊢
  have hc := c.toNat_le
  obtain ⟨ha, ha'⟩ := ha
  obtain ⟨hv, hv'⟩ := hv
  have hlow : 9 < r.1.toNat % 16 ∨ r.2.ac = true ↔ 9 < a.toNat % 16 + v.toNat % 16 + c.toNat := by
    rw [hac, hr]
    omega
  have hcarry : (daa8 r.1 r.2).2.cy = true ↔ 256 ≤ adjusted r.1 r.2 ∨ 256 ≤ a.toNat + v.toNat + c.toNat := by
    rw [daa8_cy, hcy]
  rw [IsDecimal, decimalValue, daa8_toNat]
  refine decimal_of_adjusted ha ha' hv hv' hc rfl (t1 := adjustedLow r.1 r.2) (t2 := adjusted r.1 r.2) ?_ ?_ ?_ ?_ ?_ ?_
  · exact fun h => hr ▸ adjustedLow_of (hlow.mpr h)
  · exact fun h => hr ▸ adjustedLow_of_not (mt hlow.mp h)
  · exact fun h => if_pos (h.imp_right hcy.mpr)
  · exact fun h => if_neg (mt (Or.imp_right hcy.mp) h)
  · exact fun h => congrArg Bool.toNat (hcarry.mpr h)
  · exact fun h => congrArg Bool.toNat (Bool.eq_false_iff.mpr (mt hcarry.mp h))

/-- Settles O18. -/
theorem decimalAdjustAfterAdditionGivesTheDecimalSum : Obligations.DecimalAdjustAfterAdditionGivesTheDecimalSum :=
  fun s _ ha hv => ⟨_, rfl, daa8_add8_decimal s.flags.cy s.flags ha hv⟩

end Sys2Proof.Machine
end

/-! ## Proofs: rotates -/

section
/-! A rotate moves every bit of A, or of CY and A together, one place round a ring (R159 to R162): after as many moves
as the ring has places every bit is back. -/

namespace Sys2Proof.Machine

/-! ### A and CY under one rotate -/

/-- The state with A and CY as given: what a rotate writes. -/
def State.withRing (s : State) (p : Byte × Bool) : State := s.rotated p.1 p.2

/-- RLC on A and CY (R161). -/
def rlcStep (p : Byte × Bool) : Byte × Bool :=
  (p.1.extractLsb' 0 7 ++ p.1.extractLsb' 7 1, p.1.getLsbD 7)

/-- RRC (R162). -/
def rrcStep (p : Byte × Bool) : Byte × Bool :=
  (p.1.extractLsb' 0 1 ++ p.1.extractLsb' 1 7, p.1.getLsbD 0)

/-- RAL (R159). -/
def ralStep (p : Byte × Bool) : Byte × Bool :=
  (p.1.extractLsb' 0 7 ++ BitVec.ofBool p.2, p.1.getLsbD 7)

/-- RAR (R160). -/
def rarStep (p : Byte × Bool) : Byte × Bool :=
  (BitVec.ofBool p.2 ++ p.1.extractLsb' 1 7, p.1.getLsbD 0)

section
variable (s : State) (p : Byte × Bool)

theorem exec_rlc : exec .rlc (s.withRing p) = .next (s.withRing (rlcStep p)) := rfl
theorem exec_rrc : exec .rrc (s.withRing p) = .next (s.withRing (rrcStep p)) := rfl
theorem exec_ral : exec .ral (s.withRing p) = .next (s.withRing (ralStep p)) := rfl
theorem exec_rar : exec .rar (s.withRing p) = .next (s.withRing (rarStep p)) := rfl

end

/-! ### One place, as a number -/

theorem toNat_append_eq {m n : Nat} (x : BitVec m) (y : BitVec n) : (x ++ y).toNat = x.toNat * 2 ^ n + y.toNat := by
  rw [BitVec.toNat_append, ← Nat.shiftLeft_add_eq_or_of_lt y.isLt, Nat.shiftLeft_eq]

theorem bit7_toNat (a : Byte) : (a.getLsbD 7).toNat = a.toNat / 128 := by
  revert a; decide

theorem bit0_toNat (a : Byte) : (a.getLsbD 0).toNat = a.toNat % 2 := by
  revert a; decide

theorem extractLsb'_toNat_eq {w : Nat} (x : BitVec w) (start len : Nat) :
    (x.extractLsb' start len).toNat = x.toNat / 2 ^ start % 2 ^ len := by
  rw [BitVec.extractLsb'_toNat, Nat.shiftRight_eq_div_pow]

theorem rlcStep_toNat (p : Byte × Bool) : (rlcStep p).1.toNat = 2 * p.1.toNat % 256 + p.1.toNat / 128 := by
  have ha := p.1.isLt
  have h : (rlcStep p).1.toNat = _ := toNat_append_eq (p.1.extractLsb' 0 7) (p.1.extractLsb' 7 1)
  rw [h, extractLsb'_toNat_eq, extractLsb'_toNat_eq]
  omega

theorem rrcStep_toNat (p : Byte × Bool) : (rrcStep p).1.toNat = p.1.toNat / 2 + 128 * (p.1.toNat % 2) := by
  have ha := p.1.isLt
  have h : (rrcStep p).1.toNat = _ := toNat_append_eq (p.1.extractLsb' 0 1) (p.1.extractLsb' 1 7)
  rw [h, extractLsb'_toNat_eq, extractLsb'_toNat_eq]
  omega

theorem ralStep_toNat (p : Byte × Bool) : (ralStep p).1.toNat = 2 * p.1.toNat % 256 + p.2.toNat := by
  have h : (ralStep p).1.toNat = _ := toNat_append_eq (p.1.extractLsb' 0 7) (BitVec.ofBool p.2)
  rw [h, extractLsb'_toNat_eq, BitVec.toNat_ofBool]
  omega

theorem rarStep_toNat (p : Byte × Bool) : (rarStep p).1.toNat = p.1.toNat / 2 + 128 * p.2.toNat := by
  have ha := p.1.isLt
  have h : (rarStep p).1.toNat = _ := toNat_append_eq (BitVec.ofBool p.2) (p.1.extractLsb' 1 7)
  rw [h, extractLsb'_toNat_eq, BitVec.toNat_ofBool]
  omega

theorem rotatesA_of_withRing {s : State} {i : Instr} {p : Byte × Bool} {a cy : Nat}
    (hexec : exec i s = .next (s.withRing p)) (ha : p.1.toNat = a) (hcy : p.2.toNat = cy) : RotatesA s i a cy := by
  have hrest : SameRest s (s.withRing p) := ⟨rfl, rfl, rfl, rfl, rfl, rfl⟩
  exact ⟨_, hexec, ha, hcy, rfl, rfl, rfl, rfl, .of_eq rfl hrest, hrest⟩

/-- Settles O19. -/
theorem rotatesMoveOnePlaceAndWriteCarryOnly : Obligations.RotatesMoveOnePlaceAndWriteCarryOnly := fun s =>
  let p := (s.regs.a, s.flags.cy)
  ⟨rotatesA_of_withRing (exec_rlc s p) (rlcStep_toNat p) (bit7_toNat _),
    rotatesA_of_withRing (exec_rrc s p) (rrcStep_toNat p) (bit0_toNat _),
    rotatesA_of_withRing (exec_ral s p) (ralStep_toNat p) (bit7_toNat _),
    rotatesA_of_withRing (exec_rar s p) (rarStep_toNat p) (bit0_toNat _)⟩

/-! ### Round the ring -/

theorem execAll_replicate {α : Type} {i : Instr} {g : α → State} {f : α → α} (h : ∀ p, exec i (g p) = .next (g (f p)))
    (n : Nat) (p : α) : execAll (List.replicate n i) (g p) = .next (g (f^[n] p)) := by
  induction n generalizing p with
  | zero => rfl
  | succ n ih => rw [List.replicate_succ, execAll, h]; exact ih (f p)

/-- Where `f` takes each of the `m` bits from the one `d` places round, `m` times `f` leaves every bit. -/
theorem bit_iterate {α : Type} {f : α → α} {bit : α → Nat → Bool} {m d : Nat}
    (hstep : ∀ p k, k < m → bit (f p) k = bit p ((k + d) % m)) (p : α) {k : Nat} (hk : k < m) :
    bit (f^[m] p) k = bit p k := by
  have hn : ∀ n p, bit (f^[n] p) k = bit p ((k + n * d) % m) := by
    intro n
    induction n with
    | zero => simp [Nat.mod_eq_of_lt hk]
    | succ n ih =>
      intro p
      rw [Function.iterate_succ_apply, ih, hstep _ _ (Nat.mod_lt _ (by omega)), Nat.mod_add_mod]
      congr 2
      ring
  rw [hn, Nat.add_mul_mod_self_left, Nat.mod_eq_of_lt hk]

/-- CY and A as nine bits, CY the highest. -/
def ringBit (p : Byte × Bool) (k : Nat) : Bool := if k = 8 then p.2 else p.1.getLsbD k

theorem ringBit_ext {p q : Byte × Bool} (h : ∀ k, k < 9 → ringBit p k = ringBit q k) : p = q := by
  refine Prod.ext (BitVec.eq_of_getLsbD_eq fun k hk => ?_) (h 8 (by decide))
  simpa [ringBit, Nat.ne_of_lt hk] using h k (by omega)

theorem ringBit_ralStep (p : Byte × Bool) (k : Nat) (hk : k < 9) : ringBit (ralStep p) k = ringBit p ((k + 8) % 9) := by
  have hbit : (ralStep p).1.getLsbD k =
      if k < 1 then (BitVec.ofBool p.2).getLsbD k else (p.1.extractLsb' 0 7).getLsbD (k - 1) := BitVec.getLsbD_append
  rw [ringBit, ringBit, hbit]
  interval_cases k <;> simp [ralStep]

theorem ringBit_rarStep (p : Byte × Bool) (k : Nat) (hk : k < 9) : ringBit (rarStep p) k = ringBit p ((k + 1) % 9) := by
  have hbit : (rarStep p).1.getLsbD k =
      if k < 7 then (p.1.extractLsb' 1 7).getLsbD k else (BitVec.ofBool p.2).getLsbD (k - 7) := BitVec.getLsbD_append
  rw [ringBit, ringBit, hbit]
  interval_cases k <;> simp [rarStep]

theorem getLsbD_rlcStep (p : Byte × Bool) (k : Nat) (hk : k < 8) :
    (rlcStep p).1.getLsbD k = p.1.getLsbD ((k + 7) % 8) := by
  have hbit : (rlcStep p).1.getLsbD k =
      if k < 1 then (p.1.extractLsb' 7 1).getLsbD k else (p.1.extractLsb' 0 7).getLsbD (k - 1) := BitVec.getLsbD_append
  rw [hbit]
  interval_cases k <;> simp

theorem getLsbD_rrcStep (p : Byte × Bool) (k : Nat) (hk : k < 8) :
    (rrcStep p).1.getLsbD k = p.1.getLsbD ((k + 1) % 8) := by
  have hbit : (rrcStep p).1.getLsbD k =
      if k < 7 then (p.1.extractLsb' 1 7).getLsbD k else (p.1.extractLsb' 0 1).getLsbD (k - 7) := BitVec.getLsbD_append
  rw [hbit]
  interval_cases k <;> simp

theorem rlcStep_iterate (p : Byte × Bool) : rlcStep^[8] p = (p.1, p.1.getLsbD 0) := by
  have hbits : (rlcStep^[8] p).1 = p.1 := BitVec.eq_of_getLsbD_eq fun k hk =>
    bit_iterate (bit := fun q k => q.1.getLsbD k) getLsbD_rlcStep p hk
  have hlast : (rlcStep^[8] p).2 = (rlcStep^[8] p).1.getLsbD 0 := by
    rw [Function.iterate_succ_apply', getLsbD_rlcStep _ 0 (by decide)]
    rfl
  exact Prod.ext hbits (hlast.trans (by rw [hbits]))

theorem rrcStep_iterate (p : Byte × Bool) : rrcStep^[8] p = (p.1, p.1.getLsbD 7) := by
  have hbits : (rrcStep^[8] p).1 = p.1 := BitVec.eq_of_getLsbD_eq fun k hk =>
    bit_iterate (bit := fun q k => q.1.getLsbD k) getLsbD_rrcStep p hk
  have hlast : (rrcStep^[8] p).2 = (rrcStep^[8] p).1.getLsbD 7 := by
    rw [Function.iterate_succ_apply', getLsbD_rrcStep _ 7 (by decide)]
    rfl
  exact Prod.ext hbits (hlast.trans (by rw [hbits]))

theorem ralStep_iterate (p : Byte × Bool) : ralStep^[9] p = p :=
  ringBit_ext fun _ hk => bit_iterate ringBit_ralStep p hk

theorem rarStep_iterate (p : Byte × Bool) : rarStep^[9] p = p :=
  ringBit_ext fun _ hk => bit_iterate ringBit_rarStep p hk

/-- Settles O20. -/
theorem fullRotationsRestoreTheAccumulator : Obligations.FullRotationsRestoreTheAccumulator := by
  intro s
  have ral := execAll_replicate (exec_ral s) 9 (s.regs.a, s.flags.cy)
  have rar := execAll_replicate (exec_rar s) 9 (s.regs.a, s.flags.cy)
  have rlc := execAll_replicate (exec_rlc s) 8 (s.regs.a, s.flags.cy)
  have rrc := execAll_replicate (exec_rrc s) 8 (s.regs.a, s.flags.cy)
  rw [ralStep_iterate] at ral
  rw [rarStep_iterate] at rar
  rw [rlcStep_iterate] at rlc
  rw [rrcStep_iterate] at rrc
  exact ⟨ral, rar, rlc, rrc⟩

end Sys2Proof.Machine
end
